-- ==== Sys2Proof/Word.lean ====
section
/-! DEFINITION. The machine word: 16 bits everywhere (R5, R9). -/

namespace Sys2Proof

/-- A register, a memory word, an operand payload: 16 unsigned bits (R5 `WORD`). -/
abbrev Word := BitVec 16

/-- `u16(x) = x mod 65536` (R9). -/
abbrev u16 (x : Nat) : Word := BitVec.ofNat 16 x

end Sys2Proof
end

