-- ==== Sys2Proof/Config.lean ====
section
/-! DEFINITION. The fixed parameters of R5, the open parameters of R6, what crosses the World port (R254), and the
World's answers as free values: constants with no body, so that nothing can be proved about which answer comes (R256). -/

namespace Sys2Proof

/-- `MEM_WORDS` (R5): memory words. -/
abbrev Config.memWords : Nat := 3600
/-- `NREGS` (R5): general registers. -/
abbrev Config.numRegs : Nat := 14
/-- `INSTR_WORDS` (R5): words per instruction. -/
abbrev Config.instrWords : Nat := 3
/-- `SP_RESET` (R5): the stack pointer of an empty stack. -/
abbrev Config.spReset : Nat := 3600
/-- `ENERGY_MAX` (R5). -/
abbrev Config.energyMax : Nat := 65535
/-- `NOPCODES` (R5): defined opcodes. -/
abbrev Config.numOpcodes : Nat := 38
/-- `COST_DEFAULT` (R5). -/
abbrev Config.costDefault : Nat := 1
/-- `COST_TRAVEL_OK` (R5). -/
abbrev Config.costTravelOk : Nat := 10
/-- `TRAVEL_MIN` (R5): energy below which TRAVEL fails without asking the World. -/
abbrev Config.travelMin : Nat := 10
/-- `EAT_GRANT` (R5). -/
abbrev Config.eatGrant : Nat := 2000
/-- `ELEM_EMPTY` (R5): the code of an empty cell. -/
abbrev Config.elemEmpty : Word := 0x0000
/-- `ELEM_COLLECTION` (R5): the code of a collection point. -/
abbrev Config.elemCollection : Word := 0xFFFF

/-- `SHIFT_MODE` (R6, R199): what a shift count of 16 or more does. -/
inductive ShiftMode where
  /-- The count is taken as it is; 16 or more shifts everything out. The default R6 suggests. -/
  | zeroAt16
  /-- The count is first replaced by its residue modulo 32. -/
  | mod32
  /-- The count is first replaced by its residue modulo 16. -/
  | mod16
deriving DecidableEq, Repr

/-- `IMAGE_BYTE_ORDER` (R6, R54): of an image kept as bytes outside the core; no core rule uses it. -/
inductive ByteOrder where
  | little
  | big
deriving DecidableEq, Repr

/-- The 38 mnemonics (R92). -/
inductive Mnemonic where
  | nop | mov | push | pop | call | ret | jmp | jl | jle | jg | jge | je | jne | js | jns
  | add | sub | mult | div | mod | and | or | xor | cmp | test | getxy | energy | travel | shl | shr
  | sense | eat | rand | release | charge | poke | peek | cksum
deriving DecidableEq, Repr

/-- `OPCODE_MAP` (R6): the mnemonics in the order of their numbers; the position in the list is the opcode number. That it
is a bijection onto 0..37 is `OpcodeMap.wf`. -/
abbrev OpcodeMap := List Mnemonic

/-- The open parameters of R6 that the core's rules use, and the per-organism configuration of R32; constant after
spawn. They ride in State, so that every statement holds for all their values (log 5). -/
structure Params where
  /-- `ORG_ID` (R6, R32): shown in the snapshot only. Any integer: R6 gives it no range, and the model sets none (log 5). -/
  orgId : Int
  /-- `IMMUNE_TO_MUTATION` (R32): the organism is a drone. -/
  immuneToMutation : Bool
  /-- `INIT_ENERGY` (R6): energy after reset; 1..65535 (`Params.wf`). -/
  initEnergy : Word
  /-- `EA_WRAP16` (R6, R135). -/
  eaWrap16 : Bool
  /-- `SHIFT_MODE` (R6, R199, R200). -/
  shiftMode : ShiftMode
  /-- `OPCODE_MAP` (R6, R92): what the codec reads numbers by; a bijection (`Params.wf`). -/
  opcodeMap : OpcodeMap
  /-- Grid width (R6): bounds the `x` that GETXY returns. R6 gives its type as 'integer'; a number of columns, so the model
  takes a Nat, at least 1 (`Params.wf`, log 22). -/
  gridWidth : Nat
  /-- Grid height (R6): bounds the `y` that GETXY returns; a number of rows, as the width (log 22). -/
  gridHeight : Nat
deriving DecidableEq, Repr

/-- One completed call on the World port with its answer (R254, R228). -/
inductive WorldCall where
  /-- `position()` answered `(x, y)`. -/
  | position (x y : Word)
  /-- `element_at(x, y)` answered the element code `e`. -/
  | elementAt (x y e : Word)
  /-- `attempt_move(d)` answered `ok`. -/
  | attemptMove (d : BitVec 2) (ok : Bool)
  /-- `consume()` answered `e`; before it returned, the World drove `mutate(addr, val)` if `mutation = some (addr, val)`. -/
  | consume (e : Word) (mutation : Option (Word × Word))
  /-- `collect(amt)` answered `ok`. -/
  | collect (amt : Word) (ok : Bool)
  /-- `next_random(bound)` answered `v`. -/
  | nextRandom (bound v : Word)
deriving DecidableEq, Repr

/-- An answer the environment has decided on for a coming call (an input of the step, R256; log 6). -/
inductive Answer where
  /-- For `element_at`. -/
  | element (e : Word)
  /-- For `attempt_move`: refused, or granted with the destination cell. -/
  | move (dest : Option (Word × Word))
  /-- For `consume`: whether and how the World mutates the organism. -/
  | consumed (mutation : Option (Word × Word))
  /-- For `collect`. -/
  | collected (ok : Bool)
  /-- For `next_random`, before the contract's bound is applied. -/
  | random (v : Word)
deriving DecidableEq, Repr

/-- Free value (R255, R305): the column the World places the organism in at spawn. -/
opaque Config.spawnX : Word
/-- Free value (R255, R305): the row the World places the organism in at spawn. -/
opaque Config.spawnY : Word
/-- Free value (R256, U21): the element code at `(x, y)` after the calls `log`. -/
opaque Config.drawElement : (log : List WorldCall) → (x y : Word) → Word
/-- Free value (R256, U22): whether direction `d` is free after the calls `log`, and the destination if it is. -/
opaque Config.drawMove : (log : List WorldCall) → (d : BitVec 2) → Option (Word × Word)
/-- Free value (R261, U25): whether eating after the calls `log` mutates, and the pair `(addr, val)` if it does. -/
opaque Config.drawMutation : (log : List WorldCall) → Option (Word × Word)
/-- Free value (R256, U23): whether the organism stands on a collection point after the calls `log`. -/
opaque Config.drawCollect : (log : List WorldCall) → (amt : Word) → Bool
/-- Free value (R256, U24): the random stream's next value after the calls `log`, before the bound is applied. -/
opaque Config.drawRandom : (log : List WorldCall) → (bound : Word) → Word

end Sys2Proof
end

