-- ==== Sys2Proof/Syntax.lean ====
section
/-! DEFINITION. Operands (R11, R85), the decoded triple (R90), the three words of an instruction (R80), and the 38
instructions of R92, one constructor per row of spec/opcode_table.json, with the operands the opcode uses. -/

namespace Sys2Proof

/-- A decoded operand (R11, R85). Register indices above 13 stay as they are: the register file bounds-checks them (R22). -/
inductive Operand where
  /-- `mem[a]`. -/
  | direct (a : Word)
  /-- `r[i]`. -/
  | register (i : Word)
  /-- The literal `v`; for a control-flow operand 1, the absolute target (R89). -/
  | immediate (v : Word)
  /-- `mem[r[reg] + off]`, `off` in -4096..4095 (`Operand.wf`). -/
  | indexed (reg : BitVec 4) (off : Int)
deriving DecidableEq, Repr

/-- The three words of an instruction, word 0 at the lowest address (R80). -/
structure Words where
  w0 : Word
  w1 : Word
  w2 : Word
deriving DecidableEq, Repr

/-- What `decode` of R90 returns: the opcode byte and both operands, whether the opcode uses them or not. -/
structure Decoded where
  opcode : BitVec 8
  op1 : Operand
  op2 : Operand
deriving DecidableEq, Repr

/-- How an opcode uses an operand slot: the columns "op1", "op2" of R92. -/
inductive Access where
  | unused
  | read
  | write
  | readWrite
deriving DecidableEq, Repr

/-- A row of the table of R92 without its number, which is `OPCODE_MAP`'s; `relative` marks the opcodes of R89. -/
structure OpcodeRow where
  text : String
  op1 : Access
  op2 : Access
  relative : Bool
deriving DecidableEq, Repr

/-- Why a decoded triple names no instruction (R95). -/
inductive DecodeReject where
  /-- The opcode byte has no mnemonic: 38 to 255. The step then runs R245. That `decode` says so by a name of its own, where
  R90 returns the byte as a number, is the model's choice (log 14). -/
  | undefinedOpcode (opcode : BitVec 8)
deriving DecidableEq, Repr

/-- The instructions of R92. A control-flow operand holds the absolute target (R89). -/
inductive Instr where
  | nop
  | mov (dst src : Operand)
  | push (src : Operand)
  | pop (dst : Operand)
  | call (addr : Operand)
  | ret
  | jmp (addr : Operand)
  | jl (addr : Operand)
  | jle (addr : Operand)
  | jg (addr : Operand)
  | jge (addr : Operand)
  | je (addr : Operand)
  | jne (addr : Operand)
  | js (addr : Operand)
  | jns (addr : Operand)
  | add (dst src : Operand)
  | sub (dst src : Operand)
  | mult (dst src : Operand)
  | div (dst src : Operand)
  | mod (dst src : Operand)
  | and (dst src : Operand)
  | or (dst src : Operand)
  | xor (dst src : Operand)
  | cmp (op1 op2 : Operand)
  | test (op1 op2 : Operand)
  | getxy (dst dst2 : Operand)
  | energy (dst : Operand)
  | travel (dir : Operand)
  | shl (dst src : Operand)
  | shr (dst src : Operand)
  | sense (dst : Operand)
  | eat
  | rand (dst max : Operand)
  | release (amt : Operand)
  | charge
  | poke
  | peek
  | cksum
deriving DecidableEq, Repr

end Sys2Proof
end

