-- ==== Sys2Proof/WellFormed.lean ====
section
/-! DEFINITION. What the types leave unchecked: the offset range of R85, the parameter ranges of R6, the image length of R302. -/

namespace Sys2Proof

/-- The offset of a RegisterIndexed operand is in -4096..4095 (R85, R88); every other operand is well formed by its type. -/
def Operand.wf : Operand → Bool
  | .direct _ => true
  | .register _ => true
  | .immediate _ => true
  | .indexed _ off => decide (-4096 ≤ off) && decide (off ≤ 4095)

/-- Both operands are in the domain of R85. -/
def Decoded.wf (d : Decoded) : Bool := d.op1.wf && d.op2.wf

/-- Every operand of the instruction is in the domain of R85. -/
def Instr.wf : Instr → Bool
  | .nop | .ret | .eat | .charge | .poke | .peek | .cksum => true
  | .push a | .pop a | .call a | .jmp a | .jl a | .jle a | .jg a | .jge a | .je a | .jne a | .js a | .jns a => a.wf
  | .energy a | .travel a | .sense a | .release a => a.wf
  | .mov a b | .add a b | .sub a b | .mult a b | .div a b | .mod a b | .and a b | .or a b | .xor a b => a.wf && b.wf
  | .cmp a b | .test a b | .getxy a b | .shl a b | .shr a b | .rand a b => a.wf && b.wf

/-- `OPCODE_MAP` is a bijection of the 38 mnemonics onto 0..37 (R6): 38 places and no mnemonic twice. -/
def OpcodeMap.wf (map : OpcodeMap) : Bool := decide (map.length = Config.numOpcodes) && decide map.Nodup

/-- `INIT_ENERGY` is in 1..65535 and `OPCODE_MAP` is a bijection (R6); the grid has a cell for the organism (log 22). -/
def Params.wf (p : Params) : Bool :=
  p.initEnergy != 0 && OpcodeMap.wf p.opcodeMap && decide (0 < p.gridWidth) && decide (0 < p.gridHeight)

/-- A program image is exactly 3600 words (R302). -/
def imageWf (image : List Word) : Bool := image.length == Config.memWords

end Sys2Proof
end

