-- ==== Sys2Proof/Decode.lean ====
section
/-! DEFINITION. The instruction codec, for every opcode map (R6): the numbering and the table of R92, the field positions of
word 0 (R81) and of an indexed payload (R87), the total decoder (R90), the encoder (R91), and the host's reading of a table
word. -/

namespace Sys2Proof

/-- The value R6 suggests for `OPCODE_MAP`: the numbering of R92 (the spec's decision D1). The only place where an opcode has
its number. -/
def Config.opcodeMap : OpcodeMap :=
  [.nop, .mov, .push, .pop, .call, .ret, .jmp, .jl, .jle, .jg, .jge, .je, .jne, .js, .jns,
   .add, .sub, .mult, .div, .mod, .and, .or, .xor, .cmp, .test, .getxy, .energy, .travel, .shl, .shr,
   .sense, .eat, .rand, .release, .charge, .poke, .peek, .cksum]

/-- The table of R92 without its numbers: text, use of operand 1, use of operand 2, relative Immediate (R89). -/
def Mnemonic.row : Mnemonic → OpcodeRow
  | .nop => ⟨"NOP", .unused, .unused, false⟩
  | .mov => ⟨"MOV", .write, .read, false⟩
  | .push => ⟨"PUSH", .read, .unused, false⟩
  | .pop => ⟨"POP", .write, .unused, false⟩
  | .call => ⟨"CALL", .read, .unused, true⟩
  | .ret => ⟨"RET", .unused, .unused, false⟩
  | .jmp => ⟨"JMP", .read, .unused, true⟩
  | .jl => ⟨"JL", .read, .unused, true⟩
  | .jle => ⟨"JLE", .read, .unused, true⟩
  | .jg => ⟨"JG", .read, .unused, true⟩
  | .jge => ⟨"JGE", .read, .unused, true⟩
  | .je => ⟨"JE", .read, .unused, true⟩
  | .jne => ⟨"JNE", .read, .unused, true⟩
  | .js => ⟨"JS", .read, .unused, true⟩
  | .jns => ⟨"JNS", .read, .unused, true⟩
  | .add => ⟨"ADD", .readWrite, .read, false⟩
  | .sub => ⟨"SUB", .readWrite, .read, false⟩
  | .mult => ⟨"MULT", .readWrite, .read, false⟩
  | .div => ⟨"DIV", .readWrite, .read, false⟩
  | .mod => ⟨"MOD", .readWrite, .read, false⟩
  | .and => ⟨"AND", .readWrite, .read, false⟩
  | .or => ⟨"OR", .readWrite, .read, false⟩
  | .xor => ⟨"XOR", .readWrite, .read, false⟩
  | .cmp => ⟨"CMP", .read, .read, false⟩
  | .test => ⟨"TEST", .read, .read, false⟩
  | .getxy => ⟨"GETXY", .write, .write, false⟩
  | .energy => ⟨"ENERGY", .write, .unused, false⟩
  | .travel => ⟨"TRAVEL", .read, .unused, false⟩
  | .shl => ⟨"SHL", .readWrite, .read, false⟩
  | .shr => ⟨"SHR", .readWrite, .read, false⟩
  | .sense => ⟨"SENSE", .write, .unused, false⟩
  | .eat => ⟨"EAT", .unused, .unused, false⟩
  | .rand => ⟨"RAND", .write, .read, false⟩
  | .release => ⟨"RELEASE", .read, .unused, false⟩
  | .charge => ⟨"CHARGE", .unused, .unused, false⟩
  | .poke => ⟨"POKE", .unused, .unused, false⟩
  | .peek => ⟨"PEEK", .unused, .unused, false⟩
  | .cksum => ⟨"CKSUM", .unused, .unused, false⟩

/-- The mnemonic an opcode byte stands for, if any (R92, R95). -/
def opcodeMnemonic (map : OpcodeMap) (opcode : BitVec 8) : Option Mnemonic := map[opcode.toNat]?

/-- The opcode number of a mnemonic (R92). -/
def opcodeNumber (map : OpcodeMap) (m : Mnemonic) : BitVec 8 := BitVec.ofNat 8 (map.idxOf m)

/-- The row of an opcode byte, if it is defined (R92, R95). -/
def opcodeRow (map : OpcodeMap) (opcode : BitVec 8) : Option OpcodeRow := (opcodeMnemonic map opcode).map Mnemonic.row

/-- Whether an Immediate operand 1 of this opcode is stored relative to the instruction's address: CALL, JMP and the
conditional jumps (R89), by their mnemonics under every map (93_implementation_defined.md, GK1). -/
def isRelative (map : OpcodeMap) (opcode : BitVec 8) : Bool :=
  match opcodeMnemonic map opcode with
  | some m => m.row.relative
  | none => false

/-- Position of `mode1` in word 0: bits 15:14 (R81). -/
def mode1Pos : Nat := 14
/-- Position of `mode2` in word 0: bits 13:12 (R81). -/
def mode2Pos : Nat := 12
/-- Position of `sub1` in word 0: bit 11 (R81). -/
def sub1Pos : Nat := 11
/-- Position of `sub2` in word 0: bit 10 (R81). -/
def sub2Pos : Nat := 10
/-- Position of `opcode` in word 0: bits 7:0 (R81). -/
def opcodePos : Nat := 0
/-- Position of `reg` in an indexed payload: bits 15:12 (R87). -/
def regPos : Nat := 12
/-- Position of `field` in an indexed payload: bits 11:0 (R87). -/
def offsetPos : Nat := 0

/-- The `width`-bit field of `w` whose lowest bit is bit `pos`. -/
def field (w : Word) (pos width : Nat) : BitVec width := w.extractLsb' pos width

/-- A field's value moved to its place in a word. -/
def place {width : Nat} (v : BitVec width) (pos : Nat) : Word := v.setWidth 16 <<< pos

/-- The offset of R88 from the subtract flag and the 12-bit field: the flag takes `0x1000 - field` away. -/
def offsetOf (sub : BitVec 1) (fld : BitVec 12) : Int :=
  if sub = 1#1 then -(0x1000 - (fld.toNat : Int)) else (fld.toNat : Int)

/-- One operand of R90 from its mode, subtract flag and payload; `base` is the instruction's address where the relative
rule R89 applies to an Immediate and 0 where it does not. -/
def decodeOperand (mode : BitVec 2) (sub : BitVec 1) (payload base : Word) : Operand :=
  match mode.toNat with
  | 0 => .direct payload
  | 1 => .register payload
  | 2 => .immediate (base + payload)
  | _ => .indexed (field payload regPos 4) (offsetOf sub (field payload offsetPos 12))

/-- What the relative rule adds to an Immediate operand 1 of this opcode at this address (R89). -/
def relativeBase (map : OpcodeMap) (opcode : BitVec 8) (ip : Word) : Word := if isRelative map opcode then ip else 0

/-- `decode(w0, w1, w2, ip)` of R90: total, both operands always produced; bits 9:8 of word 0 are ignored (R84). -/
def decodeWords (map : OpcodeMap) (w : Words) (ip : Word) : Decoded :=
  let opcode := field w.w0 opcodePos 8
  { opcode := opcode
    op1 := decodeOperand (field w.w0 mode1Pos 2) (field w.w0 sub1Pos 1) w.w1 (relativeBase map opcode ip)
    op2 := decodeOperand (field w.w0 mode2Pos 2) (field w.w0 sub2Pos 1) w.w2 0 }

/-- The instruction of a mnemonic, with the operand slots it uses (R92, R134). -/
def instrNamed (m : Mnemonic) (o1 o2 : Operand) : Instr :=
  match m with
  | .nop => .nop
  | .mov => .mov o1 o2
  | .push => .push o1
  | .pop => .pop o1
  | .call => .call o1
  | .ret => .ret
  | .jmp => .jmp o1
  | .jl => .jl o1
  | .jle => .jle o1
  | .jg => .jg o1
  | .jge => .jge o1
  | .je => .je o1
  | .jne => .jne o1
  | .js => .js o1
  | .jns => .jns o1
  | .add => .add o1 o2
  | .sub => .sub o1 o2
  | .mult => .mult o1 o2
  | .div => .div o1 o2
  | .mod => .mod o1 o2
  | .and => .and o1 o2
  | .or => .or o1 o2
  | .xor => .xor o1 o2
  | .cmp => .cmp o1 o2
  | .test => .test o1 o2
  | .getxy => .getxy o1 o2
  | .energy => .energy o1
  | .travel => .travel o1
  | .shl => .shl o1 o2
  | .shr => .shr o1 o2
  | .sense => .sense o1
  | .eat => .eat
  | .rand => .rand o1 o2
  | .release => .release o1
  | .charge => .charge
  | .poke => .poke
  | .peek => .peek
  | .cksum => .cksum

/-- The instruction a decoded triple stands for; an opcode byte that has no mnemonic is rejected by name (R95, log 14; what
the step then does is R245). -/
def instrOf (map : OpcodeMap) (d : Decoded) : Except DecodeReject Instr :=
  match opcodeMnemonic map d.opcode with
  | some m => .ok (instrNamed m d.op1 d.op2)
  | none => .error (.undefinedOpcode d.opcode)

/-- The instruction that three words at address `ip` stand for. -/
def decode (map : OpcodeMap) (w : Words) (ip : Word) : Except DecodeReject Instr := instrOf map (decodeWords map w ip)

/-- The mode number of R82. -/
def modeOf : Operand → BitVec 2
  | .direct _ => 0
  | .register _ => 1
  | .immediate _ => 2
  | .indexed _ _ => 3

/-- The subtract flag of R88: set for a negative offset, clear for every other operand (R83). -/
def subOf : Operand → BitVec 1
  | .direct _ => 0
  | .register _ => 0
  | .immediate _ => 0
  | .indexed _ off => if off < 0 then 1 else 0

/-- The payload word of R91; `base` as for `decodeOperand`. -/
def payloadOf (o : Operand) (base : Word) : Word :=
  match o with
  | .direct a => a
  | .register i => i
  | .immediate v => v - base
  | .indexed reg off => place reg regPos ||| place (BitVec.ofInt 12 off) offsetPos

/-- `encode(opcode, operand1, operand2, ip)` of R91. -/
def encodeWords (map : OpcodeMap) (d : Decoded) (ip : Word) : Words :=
  { w0 := place (modeOf d.op1) mode1Pos ||| place (modeOf d.op2) mode2Pos |||
      place (subOf d.op1) sub1Pos ||| place (subOf d.op2) sub2Pos ||| place d.opcode opcodePos
    w1 := payloadOf d.op1 (relativeBase map d.opcode ip)
    w2 := payloadOf d.op2 0 }

/-- What the encoder puts into an operand slot the opcode does not use (R91). -/
def unusedSlot : Operand := .direct 0

/-- The mnemonic of an instruction (R92). -/
def mnemonicOf : Instr → Mnemonic
  | .nop => .nop
  | .mov _ _ => .mov
  | .push _ => .push
  | .pop _ => .pop
  | .call _ => .call
  | .ret => .ret
  | .jmp _ => .jmp
  | .jl _ => .jl
  | .jle _ => .jle
  | .jg _ => .jg
  | .jge _ => .jge
  | .je _ => .je
  | .jne _ => .jne
  | .js _ => .js
  | .jns _ => .jns
  | .add _ _ => .add
  | .sub _ _ => .sub
  | .mult _ _ => .mult
  | .div _ _ => .div
  | .mod _ _ => .mod
  | .and _ _ => .and
  | .or _ _ => .or
  | .xor _ _ => .xor
  | .cmp _ _ => .cmp
  | .test _ _ => .test
  | .getxy _ _ => .getxy
  | .energy _ => .energy
  | .travel _ => .travel
  | .shl _ _ => .shl
  | .shr _ _ => .shr
  | .sense _ => .sense
  | .eat => .eat
  | .rand _ _ => .rand
  | .release _ => .release
  | .charge => .charge
  | .poke => .poke
  | .peek => .peek
  | .cksum => .cksum

/-- The operand slots of an instruction, by the table of R92; unused slots as R91 has them. -/
def slotsOf : Instr → Operand × Operand
  | .nop | .ret | .eat | .charge | .poke | .peek | .cksum => (unusedSlot, unusedSlot)
  | .push a | .pop a | .call a | .jmp a | .jl a | .jle a | .jg a | .jge a | .je a | .jne a | .js a | .jns a => (a, unusedSlot)
  | .energy a | .travel a | .sense a | .release a => (a, unusedSlot)
  | .mov a b | .add a b | .sub a b | .mult a b | .div a b | .mod a b | .and a b | .or a b | .xor a b => (a, b)
  | .cmp a b | .test a b | .getxy a b | .shl a b | .shr a b | .rand a b => (a, b)

/-- The opcode and operand slots of an instruction. -/
def decodedOf (map : OpcodeMap) (i : Instr) : Decoded := ⟨opcodeNumber map (mnemonicOf i), (slotsOf i).1, (slotsOf i).2⟩

/-- The canonical words of an instruction at address `ip` (R91). -/
def encode (map : OpcodeMap) (i : Instr) (ip : Word) : Words := encodeWords map (decodedOf map i) ip

/-- A word triple is canonical (R93): bits 9:8 of word 0 clear, and each subtract flag clear where its mode is not 3. -/
def canonical (w : Words) : Bool :=
  decide (field w.w0 8 2 = 0) &&
  (decide (field w.w0 mode1Pos 2 = 3) || decide (field w.w0 sub1Pos 1 = 0)) &&
  (decide (field w.w0 mode2Pos 2 = 3) || decide (field w.w0 sub2Pos 1 = 0))

/-- The canonical twin of a word triple (R93): the ignored bits of word 0 cleared. -/
def canonicalTwin (w : Words) : Words :=
  let keep1 : Word := if field w.w0 mode1Pos 2 = 3 then 0xFFFF else 0xF7FF
  let keep2 : Word := if field w.w0 mode2Pos 2 = 3 then 0xFFFF else 0xFBFF
  { w with w0 := w.w0 &&& 0xFCFF &&& keep1 &&& keep2 }

/-- The three words of a table word: bit 0 of `w` is bit 0 of word 0, word 1 is bits 31:16, word 2 bits 47:32; the bits
above `nbits` are 0. -/
def tableWords (nbits w : Nat) : Words :=
  let v := w % 2 ^ nbits
  ⟨u16 v, u16 (v >>> 16), u16 (v >>> 32)⟩

/-- What the decoder reads from a table word, taken to stand at address 0, where the first instruction after reset stands
(R34; it matters only for the relative rule R89; log 16), under the map of R92. -/
def decodeTableWord (nbits w : Nat) : Option Instr :=
  match decode Config.opcodeMap (tableWords nbits w) 0 with
  | .ok i => some i
  | .error _ => none

end Sys2Proof
end

