-- ==== Sys2Proof/Machine/State.lean ====
section
/-! DEFINITION. The machine's state as plain data (R8, R20 to R34), the reasons a step can stop, and the state after reset. -/

namespace Sys2Proof

/-- The parameters at reset: the defaults R6 suggests where it does, and DESIGN CHOICE values for `ORG_ID` (0, log 5),
`INIT_ENERGY` (10000, the figure R6 mentions, log 3; unsafe) and the grid (65536 by 65536, which bounds a 16-bit coordinate no
further, log 22). -/
def Config.defaultParams : Params :=
  { orgId := 0, immuneToMutation := false, initEnergy := 10000, eaWrap16 := false, shiftMode := .zeroAt16
    opcodeMap := Config.opcodeMap, gridWidth := 65536, gridHeight := 65536 }

end Sys2Proof

namespace Sys2Proof.Machine

/-- The four flags of R27, independent bits. -/
structure Flags where
  /-- `flag.S`. -/
  success : Bool
  /-- `flag.L`. -/
  less : Bool
  /-- `flag.E`. -/
  equal : Bool
  /-- `flag.G`. -/
  greater : Bool
deriving DecidableEq, Repr

/-- One memory cell: a word address and the 16-bit word there (R50, R51: the core has no bytes; log 1). -/
abbrev Cell := Nat × Word

/-- The memory of R50: the cells whose word is not 0, addresses strictly rising (`Memory.wf`). -/
abbrev Memory := List Cell

/-- The World's side of the port (R33, R254): the MODEL's own fields, not state of the core (log 6, 7, 8). -/
structure WorldPort where
  /-- The organism's column, held by the World (R255). -/
  x : Word
  /-- The organism's row, held by the World (R255). -/
  y : Word
  /-- Answers the environment has decided on for the coming calls, in order; where it holds none for a call, the answer
  is a free value of Config (log 6). -/
  script : List Answer
  /-- The calls made so far with their answers, newest first (R228). -/
  log : List WorldCall
deriving DecidableEq, Repr

/-- The state of one core (R8), its configuration (R32) and the World's side of its port. -/
structure State where
  /-- The open parameters and per-organism configuration, constant after spawn (R6, R32). -/
  cfg : Params
  /-- `r0` to `r13` (R20). -/
  regs : Vector Word 14
  /-- The instruction pointer (R23). -/
  ip : Word
  /-- The stack pointer (R26). -/
  sp : Word
  /-- The flags (R27). -/
  flags : Flags
  /-- The energy counter (R29). -/
  energy : Word
  /-- The 3600 words of code, data and stack (R50). -/
  mem : Memory
  /-- The World port (R254). -/
  world : WorldPort
deriving DecidableEq, Repr

/-- The reasons a step can fault: none. The core raises no exception, takes no trap and has no fault state (R280), so
nobody raises one, and an empty type says so (log 17; safe: it claims nothing the spec does not). -/
inductive Fault where
deriving DecidableEq, Repr

/-- The reasons a step can be refused. -/
inductive Refusal where
  /-- Raised by `exec` for an instruction without a meaning; safe. No arm raises it: all 38 have their meaning. -/
  | notModelled (mnemonic : String)
deriving DecidableEq, Repr

/-- The World port before the first call: position chosen by the World (free values), nothing scripted, nothing called. -/
def WorldPort.initial : WorldPort := { x := Config.spawnX, y := Config.spawnY, script := [], log := [] }

/-- The values of R34 and R302, for a configuration, a World and a memory. -/
def State.spawn (cfg : Params) (world : WorldPort) (mem : Memory) : State :=
  { cfg := cfg
    regs := Vector.replicate 14 0
    ip := 0
    sp := u16 Config.spReset
    flags := { success := false, less := false, equal := false, greater := false }
    energy := cfg.initEnergy
    mem := mem
    world := world }

/-- The machine right after reset (R34), with no image placed: every word 0, which is a memory of NOPs (R58; log 2). -/
def State.reset : State := State.spawn Config.defaultParams WorldPort.initial []

end Sys2Proof.Machine
end

