-- ==== Sys2Proof/Machine/Ops.lean ====
section
/-! DEFINITION. The named operations over memory, registers, stack, instruction pointer and energy. There is no operation
that takes an exception and none that returns from one: the core has neither (R280, R284, R285). -/

namespace Sys2Proof.Machine

/-- What a step answers. -/
abbrev Result := Host.Outcome State Fault Refusal

/-! ### Plain updates, one field each -/

/-- `s` with another register file. -/
def State.withRegs (s : State) (regs : Vector Word 14) : State := { s with regs := regs }
/-- `s` with another value stored in `ip`. -/
def State.withIp (s : State) (ip : Word) : State := { s with ip := ip }
/-- `s` with another stack pointer. -/
def State.withSp (s : State) (sp : Word) : State := { s with sp := sp }
/-- `s` with other flags. -/
def State.withFlags (s : State) (flags : Flags) : State := { s with flags := flags }
/-- `s` with another energy. -/
def State.withEnergy (s : State) (energy : Word) : State := { s with energy := energy }
/-- `s` with another memory. -/
def State.withMem (s : State) (mem : Memory) : State := { s with mem := mem }
/-- `s` with another World port. -/
def State.withWorld (s : State) (world : WorldPort) : State := { s with world := world }

/-! ### Registers (R22) -/

/-- `RegRead(i)`: 0 for an index above 13. -/
def State.regRead (s : State) (i : Nat) : Word := (s.regs[i]?).getD 0

/-- `RegWrite(i, v)`: discarded for an index above 13. -/
def State.regWrite (s : State) (i : Nat) (v : Word) : State := s.withRegs (s.regs.setIfInBounds i v)

/-! ### Memory (R50 to R53) -/

/-- The addresses that exist: 0 to 3599 (R50). -/
abbrev InMemory (addr : Int) : Prop := 0 ≤ addr ∧ addr < (Config.memWords : Int)

/-- What an unlisted address reads as (R58; log 2). -/
def unlistedWord : Word := 0

/-- The word listed for an address, or what an unlisted address reads as. -/
def memLookup : Memory → Nat → Word
  | [], _ => unlistedWord
  | c :: m, a => if c.1 = a then c.2 else memLookup m a

/-- The memory without an entry for the address. -/
def memErase : Memory → Nat → Memory
  | [], _ => []
  | c :: m, a => if c.1 = a then memErase m a else c :: memErase m a

/-- The memory with an entry put in its place by address. -/
def memInsert : Memory → Cell → Memory
  | [], e => [e]
  | c :: m, e => if e.1 < c.1 then e :: c :: m else c :: memInsert m e

/-- The memory with another word at an address that exists; a word that reads as unlisted is not listed. -/
def memPut (m : Memory) (a : Nat) (v : Word) : Memory :=
  if v = unlistedWord then memErase m a else memInsert (memErase m a) (a, v)

/-- `MemRead(addr, 1)`: 0 where no memory is (R52). -/
def State.memRead (s : State) (addr : Int) : Word :=
  if InMemory addr then memLookup s.mem addr.toNat else 0

/-- The memory after a write of `v` to `addr`, which is discarded where no memory is (R53). -/
def memStore (m : Memory) (addr : Int) (v : Word) : Memory :=
  if InMemory addr then memPut m addr.toNat v else m

/-- `MemWrite(addr, 1, v)` (R53). -/
def State.memWrite (s : State) (addr : Int) (v : Word) : State := s.withMem (memStore s.mem addr v)

/-- `a` is below the address of every cell listed first. -/
def Memory.below (a : Nat) : Memory → Bool
  | [] => true
  | c :: _ => decide (a < c.1)

/-- The canonical form: addresses strictly rising and below 3600, no entry equal to what an unlisted address reads as. -/
def Memory.wf : Memory → Bool
  | [] => true
  | c :: m => decide (c.1 < Config.memWords) && decide (c.2 ≠ unlistedWord) && Memory.below c.1 m && Memory.wf m

/-! ### Instruction pointer (R24, R141) -/

/-- `norm(v)` of R24: round up to a multiple of 3, then reduce modulo 3600. -/
def normIp (v : Nat) : Word := u16 ((v + 2) / 3 * 3 % Config.memWords)

/-- The address `a` of the instruction the step executes (R132): `norm(ip)`, equal to `ip` in every reachable state. -/
def State.instrAddr (s : State) : Nat := (normIp s.ip.toNat).toNat

/-! ### Stack (R165) -/

/-- `StackPush(v)`: decrement, wrap below 0 to 3600, write. -/
def stackPush (s : State) (v : Word) : State :=
  let t : Word := if s.sp = 0 then u16 Config.spReset else s.sp - 1
  (s.withSp t).memWrite t.toNat v

/-- The word `StackPop` returns: `MemRead(sp, 1)`, which is 0 on an empty stack. -/
def stackTop (s : State) : Word := s.memRead s.sp.toNat

/-- The state `StackPop` leaves: `sp` incremented, wrapped above 3600 to 3600. -/
def stackDrop (s : State) : State :=
  s.withSp (if s.sp.toNat + 1 > Config.spReset then u16 Config.spReset else s.sp + 1)

/-! ### Mutation port (R261) -/

/-- `mutate(addr, val)`: XOR one word, unless the organism is immune. -/
def mutate (s : State) (addr val : Word) : State :=
  if s.cfg.immuneToMutation then s else s.memWrite addr.toNat (s.memRead addr.toNat ^^^ val)

/-- The mutation the World drives before `consume` returns, if it drives one (R260). -/
def applyMutation (s : State) : Option (Word × Word) → State
  | none => s
  | some (addr, val) => mutate s addr val

/-! ### The last two phases of a step (R141, R142) -/

/-- `energy <- max(0, energy - cost)` (R142). -/
def State.consumeEnergy (s : State) (cost : Nat) : State := s.withEnergy (u16 (s.energy.toNat - cost))

/-- IP update to `norm(next)`, then energy consumption (R141, R142). -/
def finish (s : State) (next cost : Nat) : Result := .next ((s.withIp (normIp next)).consumeEnergy cost)

/-- The end of every instruction that neither transfers control nor sets its cost: `next = a + 3`, cost 1 (R131). -/
def advance (s : State) : Result := finish s (s.instrAddr + Config.instrWords) Config.costDefault

end Sys2Proof.Machine
end

