-- ==== Sys2Proof/Machine/Operands.lean ====
section
/-! DEFINITION. Operand resolution, reads and writes (R135 to R138). -/

namespace Sys2Proof.Machine

/-- Where a destination operand writes, once resolved (R137, R138). -/
inductive Loc where
  /-- A memory address, a mathematical integer that may lie outside the memory. -/
  | mem (addr : Int)
  /-- A register index, which may be out of range. -/
  | reg (i : Nat)
  /-- An Immediate: the write is discarded. -/
  | discard
deriving DecidableEq, Repr

/-- `EA` of R135: the base register plus the offset, unreduced unless `EA_WRAP16`. -/
def effectiveAddress (s : State) (reg : BitVec 4) (off : Int) : Int :=
  let sum : Int := (s.regRead reg.toNat).toNat + off
  if s.cfg.eaWrap16 then sum % 65536 else sum

/-- The Resolve phase for an operand that is written (R138). -/
def resolve (s : State) : Operand → Loc
  | .direct a => .mem a.toNat
  | .register i => .reg i.toNat
  | .immediate _ => .discard
  | .indexed reg off => .mem (effectiveAddress s reg off)

/-- `ReadOp(k)` (R136). -/
def readOp (s : State) : Operand → Word
  | .direct a => s.memRead a.toNat
  | .register i => s.regRead i.toNat
  | .immediate v => v
  | .indexed reg off => s.memRead (effectiveAddress s reg off)

/-- `WriteOp(k, v)` at the place resolved before (R137, R138). -/
def writeLoc (s : State) (l : Loc) (v : Word) : State :=
  match l with
  | .mem addr => s.memWrite addr v
  | .reg i => s.regWrite i v
  | .discard => s

end Sys2Proof.Machine
end

