-- ==== Sys2Proof/Machine/Arithmetic.lean ====
section
/-! DEFINITION. The ten instructions `OP dst, src` of 43_arithmetic_logic.md. All values are unsigned; none reads or writes
a flag or calls the World (R190). -/

namespace Sys2Proof.Machine

/-- The common form of R190: both operands are read, then the result is written; `none` skips the write (DIV, MOD by 0). -/
def binaryOp (f : Word → Word → Option Word) (dst src : Operand) (s : State) : Result :=
  match f (readOp s dst) (readOp s src) with
  | some v => advance (writeLoc s (resolve s dst) v)
  | none => advance s

/-- `d div s` (R194): nothing for a zero divisor. -/
def divResult (d v : Word) : Option Word := if v = 0 then none else some (d / v)

/-- `d mod s` (R195): nothing for a zero divisor. -/
def modResult (d v : Word) : Option Word := if v = 0 then none else some (d % v)

/-- The shift count after `SHIFT_MODE` (R199). -/
def shiftCount (m : ShiftMode) (n : Word) : Nat :=
  match m with
  | .zeroAt16 => n.toNat
  | .mod32 => n.toNat % 32
  | .mod16 => n.toNat % 16

/-- `SHL`'s result (R199): zeros enter at bit 0; a count of 16 or more gives 0. -/
def shlResult (m : ShiftMode) (d n : Word) : Word := if shiftCount m n ≥ 16 then 0 else d <<< shiftCount m n

/-- `SHR`'s result (R200): logical, zeros enter at bit 15; a count of 16 or more gives 0. -/
def shrResult (m : ShiftMode) (d n : Word) : Word := if shiftCount m n ≥ 16 then 0 else d >>> shiftCount m n

/-- ADD dst, src (R191). -/
def execAdd (dst src : Operand) (s : State) : Result := binaryOp (fun d v => some (d + v)) dst src s

/-- SUB dst, src (R192). -/
def execSub (dst src : Operand) (s : State) : Result := binaryOp (fun d v => some (d - v)) dst src s

/-- MULT dst, src (R193): the low 16 bits of the product. -/
def execMult (dst src : Operand) (s : State) : Result := binaryOp (fun d v => some (d * v)) dst src s

/-- DIV dst, src (R194). -/
def execDiv (dst src : Operand) (s : State) : Result := binaryOp divResult dst src s

/-- MOD dst, src (R195). -/
def execMod (dst src : Operand) (s : State) : Result := binaryOp modResult dst src s

/-- AND dst, src (R196). -/
def execAnd (dst src : Operand) (s : State) : Result := binaryOp (fun d v => some (d &&& v)) dst src s

/-- OR dst, src (R197). -/
def execOr (dst src : Operand) (s : State) : Result := binaryOp (fun d v => some (d ||| v)) dst src s

/-- XOR dst, src (R198). -/
def execXor (dst src : Operand) (s : State) : Result := binaryOp (fun d v => some (d ^^^ v)) dst src s

/-- SHL dst, src (R199). -/
def execShl (dst src : Operand) (s : State) : Result :=
  binaryOp (fun d n => some (shlResult s.cfg.shiftMode d n)) dst src s

/-- SHR dst, src (R200). -/
def execShr (dst src : Operand) (s : State) : Result :=
  binaryOp (fun d n => some (shrResult s.cfg.shiftMode d n)) dst src s

end Sys2Proof.Machine
end

