-- ==== Sys2Proof/Machine/Flags.lean ====
section
/-! DEFINITION. Every flag computation (R27, R211, R212, R220), the jump conditions (R182) and the observable layout (R28). -/

namespace Sys2Proof.Machine

/-- CMP's flags: exactly one of Less, Equal, Greater, unsigned; Success kept (R211). -/
def compareFlags (f : Flags) (x y : Word) : Flags :=
  { f with less := decide (x.toNat < y.toNat), equal := decide (x.toNat = y.toNat), greater := decide (x.toNat > y.toNat) }

/-- A full write of Success; Less, Equal, Greater kept (R220). -/
def Flags.setSuccess (f : Flags) (ok : Bool) : Flags := { f with success := ok }

/-- TEST's flag: Success says that no bit is common (R212). -/
def testFlags (f : Flags) (x y : Word) : Flags := f.setSuccess (decide (x &&& y = 0))

/-- A full write of Success in a state (R220). -/
def State.setSuccess (s : State) (ok : Bool) : State := s.withFlags (s.flags.setSuccess ok)

/-- JL is taken (R182). -/
def condL (f : Flags) : Bool := f.less
/-- JLE is taken (R182). -/
def condLE (f : Flags) : Bool := f.less || f.equal
/-- JG is taken (R182). -/
def condG (f : Flags) : Bool := f.greater
/-- JGE is taken (R182). -/
def condGE (f : Flags) : Bool := f.greater || f.equal
/-- JE is taken (R182). -/
def condE (f : Flags) : Bool := f.equal
/-- JNE is taken (R182). -/
def condNE (f : Flags) : Bool := !f.equal
/-- JS is taken (R182). -/
def condS (f : Flags) : Bool := f.success
/-- JNS is taken (R182). -/
def condNS (f : Flags) : Bool := !f.success

/-- The 4-bit value of the snapshot: bit 0 Success, 1 Less, 2 Equal, 3 Greater (R28). -/
def flagsValue (f : Flags) : BitVec 4 :=
  BitVec.ofBool f.greater ++ BitVec.ofBool f.equal ++ BitVec.ofBool f.less ++ BitVec.ofBool f.success

end Sys2Proof.Machine
end

