-- ==== Sys2Proof/Machine/CompareTest.lean ====
section
/-! DEFINITION. CMP and TEST (44_compare_test.md): they write only flags, and disjoint ones (R210). -/

namespace Sys2Proof.Machine

/-- CMP op1, op2 (R211). -/
def execCmp (op1 op2 : Operand) (s : State) : Result :=
  advance (s.withFlags (compareFlags s.flags (readOp s op1) (readOp s op2)))

/-- TEST op1, op2 (R212). -/
def execTest (op1 op2 : Operand) (s : State) : Result :=
  advance (s.withFlags (testFlags s.flags (readOp s op1) (readOp s op2)))

end Sys2Proof.Machine
end

