-- ==== Sys2Proof/Machine/ControlFlow.lean ====
section
/-! DEFINITION. CALL, RET, JMP and the conditional jumps (42_control_flow.md). None writes a flag or calls the World (R170). -/

namespace Sys2Proof.Machine

/-- A jump to the value of its operand when `taken`, else the normal advance (R170); the write of `ip` normalises. -/
def jumpWhen (taken : Bool) (addr : Operand) (s : State) : Result :=
  finish s (if taken then (readOp s addr).toNat else s.instrAddr + Config.instrWords) Config.costDefault

/-- CALL addr (R171): the target is read before the push; the return address `a + 3` is pushed unreduced. -/
def execCall (addr : Operand) (s : State) : Result :=
  finish (stackPush s (u16 (s.instrAddr + Config.instrWords))) (readOp s addr).toNat Config.costDefault

/-- RET (R172). -/
def execRet (s : State) : Result := finish (stackDrop s) (stackTop s).toNat Config.costDefault

/-- JMP addr (R173). -/
def execJmp (addr : Operand) (s : State) : Result := jumpWhen true addr s

/-- JL addr (R174). -/
def execJl (addr : Operand) (s : State) : Result := jumpWhen (condL s.flags) addr s

/-- JLE addr (R175). -/
def execJle (addr : Operand) (s : State) : Result := jumpWhen (condLE s.flags) addr s

/-- JG addr (R176). -/
def execJg (addr : Operand) (s : State) : Result := jumpWhen (condG s.flags) addr s

/-- JGE addr (R177). -/
def execJge (addr : Operand) (s : State) : Result := jumpWhen (condGE s.flags) addr s

/-- JE addr (R178). -/
def execJe (addr : Operand) (s : State) : Result := jumpWhen (condE s.flags) addr s

/-- JNE addr (R179). -/
def execJne (addr : Operand) (s : State) : Result := jumpWhen (condNE s.flags) addr s

/-- JS addr (R180). -/
def execJs (addr : Operand) (s : State) : Result := jumpWhen (condS s.flags) addr s

/-- JNS addr (R181). -/
def execJns (addr : Operand) (s : State) : Result := jumpWhen (condNS s.flags) addr s

end Sys2Proof.Machine
end

