-- ==== Sys2Proof/Machine/DataMovement.lean ====
section
/-! DEFINITION. NOP, MOV, PUSH, POP (41_data_movement.md). None writes a flag or calls the World (R160). -/

namespace Sys2Proof.Machine

/-- NOP (R161). -/
def execNop (s : State) : Result := advance s

/-- MOV dst, src (R162). -/
def execMov (dst src : Operand) (s : State) : Result := advance (writeLoc s (resolve s dst) (readOp s src))

/-- PUSH src (R163). -/
def execPush (src : Operand) (s : State) : Result := advance (stackPush s (readOp s src))

/-- POP dst (R164): the destination is resolved before the pop. -/
def execPop (dst : Operand) (s : State) : Result := advance (writeLoc (stackDrop s) (resolve s dst) (stackTop s))

end Sys2Proof.Machine
end

