-- ==== Sys2Proof/Machine/Reserved.lean ====
section
/-! DEFINITION. The reserved opcodes 34 to 37 and the undefined opcodes 38 to 255 (46_reserved.md): no operand is resolved,
nothing changes but `ip` and `energy` (R240, R245). -/

namespace Sys2Proof.Machine

/-- CHARGE (R241). -/
def execCharge (s : State) : Result := advance s

/-- POKE (R242). -/
def execPoke (s : State) : Result := advance s

/-- PEEK (R243). -/
def execPeek (s : State) : Result := advance s

/-- CKSUM (R244). -/
def execCksum (s : State) : Result := advance s

/-- An undefined opcode executes exactly as NOP (R245). -/
def execUndefined (s : State) : Result := advance s

end Sys2Proof.Machine
end

