-- ==== Sys2Proof/Machine/World.lean ====
section
/-! DEFINITION. The World port (R254 to R263): each call answers what the environment has scripted for it or else a free
value of Config, keeps the contract of R256, and is recorded (R228). The core never calls `occupied` (R254). -/

namespace Sys2Proof.Machine

/-- The port with one more call on record. -/
def WorldPort.record (w : WorldPort) (c : WorldCall) : WorldPort := { w with log := c :: w.log }

/-- `position()` (R255): the World holds the pair, so it is the same until a move. -/
def askPosition (w : WorldPort) : (Word × Word) × WorldPort := ((w.x, w.y), w.record (.position w.x w.y))

/-- The answer of `element_at(x, y)` and the script left (R258). -/
def elementAnswer (w : WorldPort) (x y : Word) : Word × List Answer :=
  match w.script with
  | .element e :: rest => (e, rest)
  | script => (Config.drawElement w.log x y, script)

/-- `element_at(x, y)` (R258). -/
def askElement (w : WorldPort) (x y : Word) : Word × WorldPort :=
  let r := elementAnswer w x y
  (r.1, WorldPort.record { w with script := r.2 } (.elementAt x y r.1))

/-- A cell is on the grid (R6, R256): the coordinates count from 0 (DESIGN CHOICE, log 22). -/
def onGrid (cfg : Params) (x y : Word) : Bool := decide (x.toNat < cfg.gridWidth) && decide (y.toNat < cfg.gridHeight)

/-- What the environment would have of a move in direction `d`, and the script left. -/
def moveWanted (w : WorldPort) (d : BitVec 2) : Option (Word × Word) × List Answer :=
  match w.script with
  | .move dest :: rest => (dest, rest)
  | script => (Config.drawMove w.log d, script)

/-- The answer of `attempt_move(d)`, with the destination if the move is granted, and the script left (R259); a move is never
granted off the grid (R256). -/
def moveAnswer (cfg : Params) (w : WorldPort) (d : BitVec 2) : Option (Word × Word) × List Answer :=
  ((moveWanted w d).1.filter fun p => onGrid cfg p.1 p.2, (moveWanted w d).2)

/-- `attempt_move(d)`: when it answers true the position is the destination (R256, R259). -/
def askMove (cfg : Params) (w : WorldPort) (d : BitVec 2) : Bool × WorldPort :=
  match moveAnswer cfg w d with
  | (some (x, y), rest) => (true, WorldPort.record { w with x := x, y := y, script := rest } (.attemptMove d true))
  | (none, rest) => (false, WorldPort.record { w with script := rest } (.attemptMove d false))

/-- Whether and how the World mutates the organism during `consume`, and the script left (R260, R261). -/
def mutationAnswer (w : WorldPort) : Option (Word × Word) × List Answer :=
  match w.script with
  | .consumed mutation :: rest => (mutation, rest)
  | script => (Config.drawMutation w.log, script)

/-- `consume()` on a cell that holds `e`: the code consumed is `e` by contract (R256); the mutation it drives, if any. -/
def askConsume (w : WorldPort) (e : Word) : Option (Word × Word) × WorldPort :=
  let r := mutationAnswer w
  (r.1, WorldPort.record { w with script := r.2 } (.consume e r.1))

/-- The answer of `collect(amt)` and the script left (R262). -/
def collectAnswer (w : WorldPort) (amt : Word) : Bool × List Answer :=
  match w.script with
  | .collected ok :: rest => (ok, rest)
  | script => (Config.drawCollect w.log amt, script)

/-- `collect(amt)` (R262). -/
def askCollect (w : WorldPort) (amt : Word) : Bool × WorldPort :=
  let r := collectAnswer w amt
  (r.1, WorldPort.record { w with script := r.2 } (.collect amt r.1))

/-- The contract of `next_random` (R256): below the bound, and 0 for the bound 0; any such value results from some draw. -/
def boundedDraw (bound v : Word) : Word := if bound = 0 then 0 else v % bound

/-- The answer of `next_random(bound)` and the script left (R263). -/
def randomAnswer (w : WorldPort) (bound : Word) : Word × List Answer :=
  match w.script with
  | .random v :: rest => (boundedDraw bound v, rest)
  | script => (boundedDraw bound (Config.drawRandom w.log bound), script)

/-- `next_random(bound)`, called for every RAND, whatever the bound (R227). -/
def askRandom (w : WorldPort) (bound : Word) : Word × WorldPort :=
  let r := randomAnswer w bound
  (r.1, WorldPort.record { w with script := r.2 } (.nextRandom bound r.1))

/-- What the organism's recorded calls have added to the World's score (R226, R256). -/
def scoreOf : List WorldCall → Nat
  | [] => 0
  | .collect amt true :: rest => amt.toNat + scoreOf rest
  | _ :: rest => scoreOf rest

end Sys2Proof.Machine
end

