-- ==== Sys2Proof/Machine/WorldTouching.lean ====
section
/-! DEFINITION. GETXY, ENERGY, TRAVEL, SENSE, EAT, RELEASE, RAND (45_world.md). The World's answers are inputs (R256); the
calls are made in the order of R228; only Success is ever written, in full (R220). -/

namespace Sys2Proof.Machine

/-- GETXY dst, dst2 (R221): both destinations are resolved before the first write. -/
def execGetxy (dst dst2 : Operand) (s : State) : Result :=
  let p := askPosition s.world
  advance (writeLoc (writeLoc (s.withWorld p.2) (resolve s dst) p.1.1) (resolve s dst2) p.1.2)

/-- ENERGY dst (R222): the energy before this step's cost. -/
def execEnergy (dst : Operand) (s : State) : Result := advance (writeLoc s (resolve s dst) s.energy)

/-- TRAVEL dir (R223): `dir mod 4`; below 10 energy the World is not asked; cost 10 for a move, else 1. -/
def execTravel (dir : Operand) (s : State) : Result :=
  if s.energy.toNat < Config.travelMin then advance (s.setSuccess false)
  else
    let m := askMove s.cfg s.world ((readOp s dir).setWidth 2)
    finish ((s.withWorld m.2).setSuccess m.1) (s.instrAddr + Config.instrWords)
      (if m.1 then Config.costTravelOk else Config.costDefault)

/-- SENSE dst (R224): the flag is written even where the write to `dst` is discarded. -/
def execSense (dst : Operand) (s : State) : Result :=
  let p := askPosition s.world
  let e := askElement p.2 p.1.1 p.1.2
  advance ((writeLoc (s.withWorld e.2) (resolve s dst) e.1).setSuccess (decide (e.1 ≠ Config.elemEmpty)))

/-- EAT cannot be done (R225): an empty cell, a collection point, or a grant past 65535. -/
abbrev EatFails (s : State) (e : Word) : Prop :=
  e = Config.elemEmpty ∨ e = Config.elemCollection ∨ s.energy.toNat + Config.eatGrant > Config.energyMax

/-- EAT (R225): the World consumes, and may mutate one word, on the success path only. -/
def execEat (s : State) : Result :=
  let p := askPosition s.world
  let e := askElement p.2 p.1.1 p.1.2
  if EatFails s e.1 then advance ((s.withWorld e.2).setSuccess false)
  else
    let c := askConsume e.2 e.1
    let fed := applyMutation (s.withWorld c.2) c.1
    advance ((fed.withEnergy (u16 (s.energy.toNat + Config.eatGrant))).setSuccess true)

/-- RELEASE amt (R226): the World is asked only if `amt <= energy`. -/
def execRelease (amt : Operand) (s : State) : Result :=
  let v := readOp s amt
  if v.toNat ≤ s.energy.toNat then
    let c := askCollect s.world v
    if c.1 then advance (((s.withWorld c.2).withEnergy (s.energy - v)).setSuccess true)
    else advance ((s.withWorld c.2).setSuccess false)
  else advance (s.setSuccess false)

/-- RAND dst, max (R227). -/
def execRand (dst max : Operand) (s : State) : Result :=
  let r := askRandom s.world (readOp s max)
  advance (writeLoc (s.withWorld r.2) (resolve s dst) r.1)

end Sys2Proof.Machine
end

