-- ==== Sys2Proof/Machine/Dispatch.lean ====
section
/-! DEFINITION. Dispatch by opcode alone (R139): one arm per instruction, each one call of its meaning. -/

namespace Sys2Proof.Machine

def exec (i : Instr) (s : State) : Host.Outcome State Fault Refusal :=
  match i with
  | .nop => Sys2Proof.Machine.execNop s
  | .mov dst src => Sys2Proof.Machine.execMov dst src s
  | .push src => Sys2Proof.Machine.execPush src s
  | .pop dst => Sys2Proof.Machine.execPop dst s
  | .call addr => Sys2Proof.Machine.execCall addr s
  | .ret => Sys2Proof.Machine.execRet s
  | .jmp addr => Sys2Proof.Machine.execJmp addr s
  | .jl addr => Sys2Proof.Machine.execJl addr s
  | .jle addr => Sys2Proof.Machine.execJle addr s
  | .jg addr => Sys2Proof.Machine.execJg addr s
  | .jge addr => Sys2Proof.Machine.execJge addr s
  | .je addr => Sys2Proof.Machine.execJe addr s
  | .jne addr => Sys2Proof.Machine.execJne addr s
  | .js addr => Sys2Proof.Machine.execJs addr s
  | .jns addr => Sys2Proof.Machine.execJns addr s
  | .add dst src => Sys2Proof.Machine.execAdd dst src s
  | .sub dst src => Sys2Proof.Machine.execSub dst src s
  | .mult dst src => Sys2Proof.Machine.execMult dst src s
  | .div dst src => Sys2Proof.Machine.execDiv dst src s
  | .mod dst src => Sys2Proof.Machine.execMod dst src s
  | .and dst src => Sys2Proof.Machine.execAnd dst src s
  | .or dst src => Sys2Proof.Machine.execOr dst src s
  | .xor dst src => Sys2Proof.Machine.execXor dst src s
  | .cmp op1 op2 => Sys2Proof.Machine.execCmp op1 op2 s
  | .test op1 op2 => Sys2Proof.Machine.execTest op1 op2 s
  | .getxy dst dst2 => Sys2Proof.Machine.execGetxy dst dst2 s
  | .energy dst => Sys2Proof.Machine.execEnergy dst s
  | .travel dir => Sys2Proof.Machine.execTravel dir s
  | .shl dst src => Sys2Proof.Machine.execShl dst src s
  | .shr dst src => Sys2Proof.Machine.execShr dst src s
  | .sense dst => Sys2Proof.Machine.execSense dst s
  | .eat => Sys2Proof.Machine.execEat s
  | .rand dst max => Sys2Proof.Machine.execRand dst max s
  | .release amt => Sys2Proof.Machine.execRelease amt s
  | .charge => Sys2Proof.Machine.execCharge s
  | .poke => Sys2Proof.Machine.execPoke s
  | .peek => Sys2Proof.Machine.execPeek s
  | .cksum => Sys2Proof.Machine.execCksum s

end Sys2Proof.Machine
end

