-- ==== Sys2Proof/Machine/Fetch.lean ====
section
/-! DEFINITION. Fetch and decode at `ip` (R132, R133), and the placing of three words there for the host. -/

namespace Sys2Proof.Machine

/-- `MemRead(a, 3)` with `a = norm(ip)` (R132). -/
def fetch (s : State) : Words :=
  let a : Int := s.instrAddr
  ⟨s.memRead a, s.memRead (a + 1), s.memRead (a + 2)⟩

/-- The instruction the next step executes (R133): decoded at its own address. -/
def fetchInstr (s : State) : Except DecodeReject Instr := decode s.cfg.opcodeMap (fetch s) (u16 s.instrAddr)

/-- The core is frozen (R30): a predicate, not a state bit. -/
abbrev State.Frozen (s : State) : Prop := s.energy = 0

/-- `s` with three words where the next step fetches. -/
def placeWords (s : State) (w : Words) : State :=
  let a : Int := s.instrAddr
  ((s.memWrite a w.w0).memWrite (a + 1) w.w1).memWrite (a + 2) w.w2

/-- `s` with three words where the next step fetches; a frozen core gets 1 energy, without which no step runs (log 15). -/
def placeForNextStep (s : State) (w : Words) : State :=
  (placeWords s w).withEnergy (if s.energy = 0 then 1 else s.energy)

end Sys2Proof.Machine
end

