-- ==== Sys2Proof/Machine/Step.lean ====
section
/-! DEFINITION. One tick (R130, R143, R250): a frozen core does nothing; otherwise fetch, decode, execute. -/

namespace Sys2Proof.Machine

/-- One `tick` event that selects the core. The IP update and the energy consumption are the end of every meaning (`finish`). -/
def step (s : State) : Host.Outcome State Fault Refusal :=
  if s.energy = 0 then .next s
  else
    match fetchInstr s with
    | .ok i => exec i s
    | .error _ => execUndefined s

/-- `s` with the table word's instruction stored where `step` fetches next (log 15). -/
def State.withFetchWord (s : State) (nbits w : Nat) : State := placeForNextStep s (tableWords nbits w)

end Sys2Proof.Machine
end

