-- ==== Sys2Proof/Machine/Loader.lean ====
section
/-! DEFINITION. The loader (R252, R302): load and reset are one event at spawn. -/

namespace Sys2Proof.Machine

/-- The memory that holds `words` verbatim from address `a` on. -/
def memOfWords (a : Nat) : List Word → Memory
  | [] => []
  | w :: ws => if w = unlistedWord then memOfWords (a + 1) ws else (a, w) :: memOfWords (a + 1) ws

/-- `load(image)` for an organism of configuration `cfg` that the World has placed: refused (`none`) unless the image is
exactly 3600 words, the parameters are in the ranges of R6 (log 3) and the position is on the grid (log 22); else the reset values with the image as memory. No
word is inspected (R302). -/
def load (cfg : Params) (world : WorldPort) (image : List Word) : Option State :=
  if imageWf image && (cfg.wf && onGrid cfg world.x world.y) then some (State.spawn cfg world (memOfWords 0 image)) else none

/-- A word from two bytes in the order they stand in a file (R54 `IMAGE_BYTE_ORDER`). -/
def wordOfBytes (order : ByteOrder) (first second : BitVec 8) : Word :=
  match order with
  | .little => second ++ first
  | .big => first ++ second

/-- The image that a byte file stands for; an odd byte at the end is no word (`none`). Outside the core (R54; log 12). -/
def imageOfBytes (order : ByteOrder) : List (BitVec 8) → Option (List Word)
  | [] => some []
  | [_] => none
  | a :: b :: rest => (imageOfBytes order rest).map (wordOfBytes order a b :: ·)

end Sys2Proof.Machine
end

