-- ==== Sys2Proof/Machine/Disassemble.lean ====
section
/-! DEFINITION. Disassembly (R99). -/

namespace Sys2Proof.Machine

/-- A number in decimal without leading zeros. -/
def decimal (n : Nat) : List Char := Nat.toDigits 10 n

/-- The text of one operand (R99). -/
def operandText : Operand → List Char
  | .direct a => '[' :: decimal a.toNat ++ [']']
  | .register i => 'r' :: decimal i.toNat
  | .immediate v => decimal v.toNat
  | .indexed reg off =>
    ['[', 'r'] ++ decimal reg.toNat ++ (if off < 0 then '-' else '+') :: decimal off.natAbs ++ [']']

/-- The operands of the slots in use, separated by a comma and one space (R99, R92 "Ops"). -/
def operandsText (row : OpcodeRow) (d : Decoded) : List Char :=
  if row.op1 = .unused then []
  else if row.op2 = .unused then ' ' :: operandText d.op1
  else ' ' :: operandText d.op1 ++ ',' :: ' ' :: operandText d.op2

/-- `data` with the three words in braces, for an undefined opcode (R99). -/
def dataText (w : Words) : List Char :=
  "data ".toList ++ [Char.ofNat 123, ' '] ++ decimal w.w0.toNat ++ ' ' :: decimal w.w1.toNat ++ ' ' ::
    decimal w.w2.toNat ++ [' ', Char.ofNat 125]

/-- `disassemble(w0, w1, w2, ip)` as characters (R99). -/
def disassembleChars (map : OpcodeMap) (w : Words) (ip : Word) : List Char :=
  let d := decodeWords map w ip
  match opcodeRow map d.opcode with
  | some row => row.text.toList ++ operandsText row d
  | none => dataText w

/-- `disassemble(w0, w1, w2, ip)` (R99). -/
def disassemble (map : OpcodeMap) (w : Words) (ip : Word) : String := String.ofList (disassembleChars map w ip)

end Sys2Proof.Machine
end

