-- ==== Sys2Proof/Machine/Observe.lean ====
section
/-! DEFINITION. The observability port (R36, R265): a snapshot read between steps, which changes nothing. -/

namespace Sys2Proof.Machine

/-- The record of R265. -/
structure Snapshot where
  id : Int
  x : Word
  y : Word
  energy : Word
  ip : Word
  sp : Word
  flags : BitVec 4
  registers : Vector Word 14
  instruction : String
deriving DecidableEq, Repr

/-- The snapshot of a core (R265): the position is the World's, the flags are the 4-bit value of R28. -/
def State.snapshot (s : State) : Snapshot :=
  { id := s.cfg.orgId, x := s.world.x, y := s.world.y, energy := s.energy, ip := s.ip, sp := s.sp
    flags := flagsValue s.flags, registers := s.regs
    instruction := disassemble s.cfg.opcodeMap (fetch s) (u16 s.instrAddr) }

end Sys2Proof.Machine
end

