-- ==== Sys2Proof/Safety.lean ====
section
/-! DEFINITION. What the statements speak of: the invariant of R35, the frames of a step, and which operands an instruction
writes. Nothing faults (R280), so a run needs no other notion of safety: it can only freeze (R30, R292). -/

namespace Sys2Proof.Machine

/-- The World holds the organism on the grid (R6, R255). -/
abbrev State.OnGrid (s : State) : Prop := s.world.x.toNat < s.cfg.gridWidth ∧ s.world.y.toNat < s.cfg.gridHeight

/-- The invariant of R35, as far as the field types do not already say it, with the memory's canonical form, the
parameters in the ranges of R6 and the position on the grid. -/
abbrev State.Inv (s : State) : Prop :=
  s.ip.toNat % 3 = 0 ∧ s.ip.toNat ≤ 3597 ∧ s.sp.toNat ≤ 3600 ∧ Memory.wf s.mem = true ∧ s.cfg.wf = true ∧ s.OnGrid

/-- Registers and memory of `t` are those of `s`, read through `RegRead` and `MemRead`. -/
def SameStore (s t : State) : Prop :=
  (∀ i : Nat, t.regRead i = s.regRead i) ∧ (∀ a : Int, t.memRead a = s.memRead a)

/-- Registers and memory of `t` are those of `s`, except that the destination `l`, if it is a register or an address that
exists, holds `v` (R22, R53, R137). -/
def Stored (s t : State) (l : Loc) (v : Word) : Prop :=
  (∀ i : Nat, t.regRead i = if l = .reg i ∧ i < 14 then v else s.regRead i) ∧
  (∀ a : Int, t.memRead a = if l = .mem a ∧ InMemory a then v else s.memRead a)

/-- The step ends with `ip <- next` and the cost taken, saturating at 0 (R141, R142). -/
def EndsAt (s t : State) (next cost : Nat) : Prop :=
  t.ip = normIp next ∧ t.energy.toNat = s.energy.toNat - cost

/-- The step ends with the normal advance at cost 1 (R131, R141, R142). -/
abbrev Advanced (s t : State) : Prop := EndsAt s t (s.instrAddr + 3) 1

/-- Configuration, stack pointer, flags and World port of `t` are those of `s`. -/
def KeepsTheRest (s t : State) : Prop :=
  t.cfg = s.cfg ∧ t.sp = s.sp ∧ t.flags = s.flags ∧ t.world = s.world

/-- The operands an instruction writes (R92, columns W and RW). -/
def destinations : Instr → List Operand
  | .mov dst _ | .add dst _ | .sub dst _ | .mult dst _ | .div dst _ | .mod dst _ => [dst]
  | .and dst _ | .or dst _ | .xor dst _ | .shl dst _ | .shr dst _ | .rand dst _ => [dst]
  | .pop dst | .energy dst | .sense dst => [dst]
  | .getxy dst dst2 => [dst, dst2]
  | .nop | .push _ | .call _ | .ret | .jmp _ | .jl _ | .jle _ | .jg _ | .jge _ | .je _ | .jne _ | .js _ | .jns _ => []
  | .cmp _ _ | .test _ _ | .travel _ | .eat | .release _ | .charge | .poke | .peek | .cksum => []

/-- The control-transfer instructions (R12, "Control-flow opcodes"). -/
def transfersControl : Instr → Bool
  | .call _ | .ret | .jmp _ | .jl _ | .jle _ | .jg _ | .jge _ | .je _ | .jne _ | .js _ | .jns _ => true
  | .nop | .mov _ _ | .push _ | .pop _ | .add _ _ | .sub _ _ | .mult _ _ | .div _ _ | .mod _ _ => false
  | .and _ _ | .or _ _ | .xor _ _ | .cmp _ _ | .test _ _ | .getxy _ _ | .energy _ | .travel _ => false
  | .shl _ _ | .shr _ _ | .sense _ | .eat | .rand _ _ | .release _ | .charge | .poke | .peek | .cksum => false

/-- The mnemonics of R89: CALL, JMP and the conditional jumps. -/
def controlFlowMnemonics : List Mnemonic := [.call, .jmp, .jl, .jle, .jg, .jge, .je, .jne, .js, .jns]

/-- The element code the World answers next for the cell under the organism (R224, R225: `position`, then `element_at`). -/
def elementUnder (w : WorldPort) : Word := (askElement (askPosition w).2 w.x w.y).1

/-- The World port after those two calls. -/
def portAfterLook (w : WorldPort) : WorldPort := (askElement (askPosition w).2 w.x w.y).2

/-- The next fetch in `t` gives `v` at address `a` and the words of `s` at every other address (R63). -/
def FetchSees (s t : State) (a : Int) (v : Word) : Prop :=
  (fetch t).w0 = (if (t.instrAddr : Int) = a then v else s.memRead t.instrAddr) ∧
  (fetch t).w1 = (if (t.instrAddr : Int) + 1 = a then v else s.memRead (t.instrAddr + 1)) ∧
  (fetch t).w2 = (if (t.instrAddr : Int) + 2 = a then v else s.memRead (t.instrAddr + 2))

/-- The shift count `SHIFT_MODE` makes of an operand (R199). -/
def modedCount : ShiftMode → Nat → Nat
  | .zeroAt16, n => n
  | .mod32, n => n % 32
  | .mod16, n => n % 16

/-- The opcode byte of an instruction's canonical words at every address is `n`, under the map of R92. -/
def HasOpcode (i : Instr) (n : Nat) : Prop :=
  ∀ ip : Word, (encode Config.opcodeMap i ip).w0.toNat % 256 = n

end Sys2Proof.Machine
end

