-- ==== Sys2Proof/Certificates/Slice0/Obligations.lean ====
section
/-! DEFINITION. The statements for the provers, from the numbered rules of the spec. A docstring names the rule; where the
rule carries a decision mark ([decision: D<n>]) or a derivation mark of the spec, the docstring says so: what it states is
then the spec's own choice where its source is silent (log 4). -/

open Sys2Proof Sys2Proof.Machine

/-! ### The codec -/

/-- The words of R98, written out from R81 to R91, decode to the instructions they stand for under
the numbering of R92 (R98 is marked derived). -/
def Obligations.WrittenOutWordsDecode : Prop :=
  decode Config.opcodeMap ⟨0x0000, 0x0000, 0x0000⟩ 0 = .ok .nop ∧
  decode Config.opcodeMap ⟨0x6001, 0x0000, 0x0005⟩ 0 = .ok (.mov (.register 0) (.immediate 5)) ∧
  decode Config.opcodeMap ⟨0x1001, 0x0064, 0x000D⟩ 0 = .ok (.mov (.direct 100) (.register 13)) ∧
  decode Config.opcodeMap ⟨0xD80F, 0x3FFE, 0x0001⟩ 0 = .ok (.add (.indexed 3 (-2)) (.register 1)) ∧
  decode Config.opcodeMap ⟨0xF410, 0x5001, 0x6FFF⟩ 0 = .ok (.sub (.indexed 5 1) (.indexed 6 (-1))) ∧
  decode Config.opcodeMap ⟨0x8006, 0xFFF7, 0x0000⟩ 15 = .ok (.jmp (.immediate 6)) ∧
  decode Config.opcodeMap ⟨0x8004, 0x0009, 0x0000⟩ 3 = .ok (.call (.immediate 12)) ∧
  decode Config.opcodeMap ⟨0x8002, 0xFFFF, 0x0000⟩ 0 = .ok (.push (.immediate 65535)) ∧
  decode Config.opcodeMap ⟨0x6017, 0x0001, 0x0000⟩ 0 = .ok (.cmp (.register 1) (.immediate 0)) ∧
  decode Config.opcodeMap ⟨0x6020, 0x0000, 0x0004⟩ 0 = .ok (.rand (.register 0) (.immediate 4))

/-- Every well-formed instruction decodes from its canonical words, under every opcode map, at every address, with every
operand value (R91, R93 for instructions; R6 for the maps). -/
def Obligations.EncodedInstructionDecodesToItself : Prop :=
  ∀ (map : OpcodeMap) (i : Instr) (ip : Word), OpcodeMap.wf map = true → i.wf = true →
    decode map (encode map i ip) ip = .ok i

/-- R93 (marked derived), both directions, for every opcode byte and map: the decoder inverts the encoder on the domain of
R85; the encoder gives a word triple back exactly if it is canonical, and its canonical twin, which decodes the same,
otherwise. What the decoder produces is in the domain of R85. -/
def Obligations.CodecInvertsOnCanonicalWords : Prop :=
  ∀ map : OpcodeMap,
    (∀ (d : Decoded) (ip : Word), d.wf = true → decodeWords map (encodeWords map d ip) ip = d) ∧
    (∀ (w : Words) (ip : Word), (decodeWords map w ip).wf = true ∧
      decodeWords map (canonicalTwin w) ip = decodeWords map w ip ∧
      encodeWords map (decodeWords map w ip) ip = canonicalTwin w ∧
      (encodeWords map (decodeWords map w ip) ip = w ↔ canonical w = true))

/-- R89 (decision D23): the Immediate operand 1 of CALL, JMP and the conditional jumps is stored relative to the
instruction's address, modulo 65536, and comes back as the absolute target; no other Immediate is adjusted. Under every
opcode map the rule follows these mnemonics, which R92 numbers 4 and 6 to 14. -/
def Obligations.ControlFlowImmediatesAreRelative : Prop :=
  ∀ (map : OpcodeMap) (opcode : BitVec 8) (target ip : Word) (other : Operand),
    ((∃ m ∈ controlFlowMnemonics, opcodeMnemonic map opcode = some m) →
      (encodeWords map ⟨opcode, .immediate target, other⟩ ip).w1.toNat = (target.toNat + 65536 - ip.toNat) % 65536 ∧
      (decodeWords map (encodeWords map ⟨opcode, .immediate target, other⟩ ip) ip).op1 = .immediate target) ∧
    (¬(∃ m ∈ controlFlowMnemonics, opcodeMnemonic map opcode = some m) →
      (encodeWords map ⟨opcode, .immediate target, other⟩ ip).w1 = target) ∧
    (encodeWords map ⟨opcode, other, .immediate target⟩ ip).w2 = target ∧
    ((∃ m ∈ controlFlowMnemonics, opcodeMnemonic Config.opcodeMap opcode = some m) ↔
      opcode.toNat ∈ [4, 6, 7, 8, 9, 10, 11, 12, 13, 14])

/-- R92, R95 (decisions D1, D9): the opcode byte alone says whether three words name an instruction. That a byte above 37 is
REJECTED, by that byte, is the model's own choice (log 14): R90 never refuses and returns it as a number. The step runs such
words as R245 says (UndefinedOpcodesExecuteAsNop). -/
def Obligations.OnlyOpcodesAbove37AreRejected : Prop :=
  ∀ (map : OpcodeMap) (w : Words) (ip : Word), OpcodeMap.wf map = true →
    (w.w0.toNat % 256 ≤ 37 → ∃ i, decode map w ip = .ok i ∧ (decodedOf map i).opcode.toNat = w.w0.toNat % 256) ∧
    (37 < w.w0.toNat % 256 → decode map w ip = .error (.undefinedOpcode (BitVec.ofNat 8 (w.w0.toNat % 256))))

/-- R134 (decision D8): what stands in an operand slot that the table of R92 marks unused does not matter. -/
def Obligations.UnusedOperandSlotsAreIgnored : Prop :=
  ∀ (map : OpcodeMap) (w w' : Words) (ip : Word) (row : OpcodeRow),
    opcodeRow map (field w.w0 opcodePos 8) = some row → field w'.w0 opcodePos 8 = field w.w0 opcodePos 8 →
    (row.op1 = .unused → decode map w' ip = decode map w ip) ∧
    (row.op2 = .unused → field w'.w0 mode1Pos 2 = field w.w0 mode1Pos 2 → field w'.w0 sub1Pos 1 = field w.w0 sub1Pos 1 →
      w'.w1 = w.w1 → decode map w' ip = decode map w ip)

/-- R99 (decision D36): the canonical words of an instruction show as its mnemonic and the texts of the operands it uses;
all words that decode to it show the same, so ignored bits and unused slots do not show; words of an undefined opcode show
as data. R173: a jump shows its absolute target, whatever its address. -/
def Obligations.DisassemblyShowsWhatIsDecoded : Prop :=
  ∀ (map : OpcodeMap) (w : Words) (ip : Word), OpcodeMap.wf map = true →
    (∀ i : Instr, i.wf = true → disassembleChars map (encode map i ip) ip =
      (mnemonicOf i).row.text.toList ++ operandsText (mnemonicOf i).row (decodedOf map i)) ∧
    (∀ i : Instr, decode map w ip = .ok i → disassembleChars map w ip = disassembleChars map (encode map i ip) ip) ∧
    (w.w0.toNat % 256 ≤ 37 → disassembleChars map (canonicalTwin w) ip = disassembleChars map w ip) ∧
    (37 < w.w0.toNat % 256 → disassembleChars map w ip = dataText w) ∧
    (∀ target : Word,
      disassembleChars map (encode map (.jmp (.immediate target)) ip) ip = "JMP ".toList ++ decimal target.toNat)

/-! ### Registers, memory, operands, the World port -/

/-- R22, whole. -/
def Obligations.RegisterAccessIsBoundsChecked : Prop :=
  ∀ (s : State) (i : Nat) (v : Word),
    (∀ h : i < 14, s.regRead i = s.regs[i]) ∧
    (13 < i → s.regRead i = 0 ∧ s.regWrite i v = s) ∧
    (i ≤ 13 → (∀ j : Nat, (s.regWrite i v).regRead j = if j = i then v else s.regRead j) ∧
      s.regWrite i v = { s with regs := (s.regWrite i v).regs })

/-- R52, whole: a read inside 0 to 3599 gives the word the memory holds there, one outside gives 0; an operand read reads
one word; a fetch reads the three words from `ip` on, all in range. -/
def Obligations.MemoryReadsAreBoundsChecked : Prop :=
  ∀ (s : State) (a : Int) (w : Word) (reg : BitVec 4) (off : Int),
    (0 ≤ a ∧ a ≤ 3599 → s.memRead a = memLookup s.mem a.toNat) ∧
    (a < 0 ∨ 3599 < a → s.memRead a = 0) ∧
    readOp s (.direct w) = s.memRead w.toNat ∧ readOp s (.indexed reg off) = s.memRead (effectiveAddress s reg off) ∧
    (s.Inv → fetch s = ⟨s.memRead s.ip.toNat, s.memRead (s.ip.toNat + 1), s.memRead (s.ip.toNat + 2)⟩ ∧
      s.ip.toNat + 2 ≤ 3599)

/-- R53, of the memory: a write inside 0 to 3599 is read back there and nowhere else, one outside is discarded, with no
wrap-around; nothing but the memory changes. -/
def Obligations.MemoryWritesAreBoundsChecked : Prop :=
  ∀ (s : State) (a : Int) (v : Word),
    (a < 0 ∨ 3599 < a → s.memWrite a v = s) ∧
    (0 ≤ a ∧ a ≤ 3599 → (∀ b : Int, (s.memWrite a v).memRead b = if b = a then v else s.memRead b) ∧
      s.memWrite a v = { s with mem := (s.memWrite a v).mem })

/-- R136, whole. -/
def Obligations.OperandsAreReadByMode : Prop :=
  ∀ (s : State) (a : Word) (reg : BitVec 4) (off : Int),
    readOp s (.direct a) = s.memRead a.toNat ∧ readOp s (.register a) = s.regRead a.toNat ∧
    readOp s (.immediate a) = a ∧ readOp s (.indexed reg off) = s.memRead (effectiveAddress s reg off)

/-- R135 (decision D10): the effective address is the sum as a mathematical integer, or its residue under `EA_WRAP16`.
R137 (decision D12): a Direct destination is the memory word, a Register destination the register; a write goes where a read
of the same operand comes from, and comes back from there if the place exists; an Immediate destination discards it. -/
def Obligations.WrittenOperandsAreReadBack : Prop :=
  ∀ (s : State) (o : Operand) (v : Word),
    (∀ a : Word, resolve s (.direct a) = .mem a.toNat) ∧ (∀ i : Word, resolve s (.register i) = .reg i.toNat) ∧
    (∀ reg off, o = .indexed reg off → resolve s o = .mem
      (if s.cfg.eaWrap16 then ((s.regRead reg.toNat).toNat + off) % 65536 else (s.regRead reg.toNat).toNat + off)) ∧
    (∀ w, o = .immediate w → writeLoc s (resolve s o) v = s) ∧
    (∀ i, resolve s o = .reg i → readOp s o = s.regRead i ∧
      (i ≤ 13 → readOp (writeLoc s (resolve s o) v) o = v) ∧ (13 < i → writeLoc s (resolve s o) v = s)) ∧
    (∀ a, resolve s o = .mem a → readOp s o = s.memRead a ∧
      (0 ≤ a ∧ a ≤ 3599 → readOp (writeLoc s (resolve s o) v) o = v) ∧
      (a < 0 ∨ 3599 < a → writeLoc s (resolve s o) v = s))

/-- R256, R261 (decisions D33, D43), with the model's script of coming answers (log 6): a call takes the answer the
environment has decided on, within the contract (a random value below the bound, a move only onto the grid, log 22), and leaves
the rest of the script. -/
def Obligations.ScriptedWorldAnswersAreUsed : Prop :=
  ∀ (cfg : Params) (w : WorldPort) (rest : List Answer) (x y e amt bound v : Word) (d : BitVec 2) (ok : Bool)
    (dest mutation : Option (Word × Word)),
    (askElement { w with script := .element e :: rest } x y =
      (e, { w with script := rest, log := .elementAt x y e :: w.log })) ∧
    (askMove cfg { w with script := .move dest :: rest } d =
      match dest with
      | some p =>
        if p.1.toNat < cfg.gridWidth ∧ p.2.toNat < cfg.gridHeight
        then (true, { x := p.1, y := p.2, script := rest, log := .attemptMove d true :: w.log })
        else (false, { w with script := rest, log := .attemptMove d false :: w.log })
      | none => (false, { w with script := rest, log := .attemptMove d false :: w.log })) ∧
    (askConsume { w with script := .consumed mutation :: rest } e =
      (mutation, { w with script := rest, log := .consume e mutation :: w.log })) ∧
    (askCollect { w with script := .collected ok :: rest } amt =
      (ok, { w with script := rest, log := .collect amt ok :: w.log })) ∧
    (bound ≠ 0 → v.toNat < bound.toNat → askRandom { w with script := .random v :: rest } bound =
      (v, { w with script := rest, log := .nextRandom bound v :: w.log })) ∧
    (askRandom { w with script := .random v :: rest } 0 =
      (0, { w with script := rest, log := .nextRandom 0 0 :: w.log }))

/-! ### The step -/

/-- R132, R133, R139, R143: with energy left, the step executes the instruction that the three words at the instruction
pointer decode to at that address; in a state of the invariant that address is `ip` itself. -/
def Obligations.StepRunsTheDecodedInstruction : Prop :=
  ∀ (s : State) (i : Instr),
    (s.energy ≠ 0 →
      decode s.cfg.opcodeMap ⟨s.memRead s.instrAddr, s.memRead (s.instrAddr + 1), s.memRead (s.instrAddr + 2)⟩
        (u16 s.instrAddr) = .ok i →
      step s = exec i s) ∧
    (s.Inv → s.instrAddr = s.ip.toNat)

/-- R130, whole: with energy 0 any number of ticks leaves every part of the state as it is (the World port and its record of
calls among it); with energy above 0 a tick executes exactly the one instruction fetched. -/
def Obligations.FrozenCoreIgnoresTicks : Prop :=
  ∀ s : State,
    (s.energy = 0 → ∀ n : Nat, Host.Core.run Sys2Proof.core n s = .next s) ∧
    (s.energy ≠ 0 → ∃ t : State, step s = .next t ∧
      ((∃ i, fetchInstr s = .ok i ∧ exec i s = .next t) ∨ (∃ r, fetchInstr s = .error r ∧ execUndefined s = .next t)))

/-- R280: there is no fault to raise; no instruction, operand, memory content, flag or World answer keeps an instruction or a
tick from answering a next state (R144), and none but the control transfers leaves the straight path. -/
def Obligations.EveryStepAnswersANextState : Prop :=
  (∀ _ : Fault, False) ∧
  (∀ (i : Instr) (s : State), ∃ t, exec i s = .next t ∧
    (transfersControl i = false → t.ip = normIp (s.instrAddr + 3))) ∧
  (∀ s : State, ∃ t, step s = .next t ∧
    (s.energy ≠ 0 → (∀ i, fetchInstr s = .ok i → transfersControl i = false) → t.ip = normIp (s.instrAddr + 3)))

/-- R245 (decision D9): an undefined opcode executes exactly as NOP. -/
def Obligations.UndefinedOpcodesExecuteAsNop : Prop :=
  ∀ s : State, OpcodeMap.wf s.cfg.opcodeMap = true → s.energy ≠ 0 → 37 < (s.memRead s.instrAddr).toNat % 256 →
    step s = exec .nop s ∧
    ∃ t, step s = .next t ∧ t = { s with ip := normIp (s.instrAddr + 3), energy := t.energy } ∧
      t.energy.toNat = s.energy.toNat - 1

/-- R24 (decision D21): `norm` rounds up to a multiple of 3, then reduces modulo 3600, and keeps what it has produced. -/
def Obligations.NormRoundsUpThenReduces : Prop :=
  ∀ v : Nat, (normIp v).toNat % 3 = 0 ∧ (normIp v).toNat ≤ 3597 ∧ normIp (normIp v).toNat = normIp v ∧
    (∃ up : Nat, v ≤ up ∧ up < v + 3 ∧ up % 3 = 0 ∧ (normIp v).toNat = up % 3600)

/-! ### Invariants and whole-machine rules -/

/-- R35 (marked derived), R6, R255: every tick keeps the invariant, the position on the grid among it (log 22), from every state
that meets it. -/
def Obligations.EveryStepKeepsTheInvariant : Prop :=
  ∀ s t : State, s.Inv → step s = .next t → t.Inv

/-- R34, R35: the state after reset meets the invariant, with `sp = 3600`. That it fetches NOP is the model's own choice of a
reset with no image placed (log 2): R34 gives the memory as the program image. -/
def Obligations.ResetMeetsTheInvariant : Prop :=
  State.reset.Inv ∧ State.reset.sp.toNat = 3600 ∧ fetchInstr State.reset = .ok .nop

/-- R302, R252, R34 (decisions D26, D34): a program image of 3600 words is loaded verbatim and every other piece of the
core's state takes its reset value; another length is refused; the loaded state meets the invariant. The model's own: the
loader refuses parameters outside the ranges of R6 (log 3) and a position off the grid (log 22), and `State.reset` is what loading 3600 zero words gives under
the model's default parameters (log 2, 3, 5). -/
def Obligations.LoaderPlacesTheImageVerbatim : Prop :=
  (∀ (cfg : Params) (world : WorldPort) (image : List Word),
    (image.length ≠ 3600 ∨ cfg.wf = false ∨ ¬(world.x.toNat < cfg.gridWidth ∧ world.y.toNat < cfg.gridHeight) →
      load cfg world image = none) ∧
    (image.length = 3600 → cfg.wf = true → world.x.toNat < cfg.gridWidth → world.y.toNat < cfg.gridHeight → ∃ s, load cfg world image = some s ∧ s.Inv ∧
      (∀ k : Nat, k < 3600 → some (s.memRead k) = image[k]?) ∧ (∀ i : Nat, s.regRead i = 0) ∧
      s.ip = 0 ∧ s.sp.toNat = 3600 ∧ s.flags = ⟨false, false, false, false⟩ ∧ s.energy = cfg.initEnergy ∧
      s.cfg = cfg ∧ s.world = world)) ∧
  load Config.defaultParams WorldPort.initial (List.replicate 3600 0) = some State.reset

/-- R32: the configuration is constant, and no program can read `ORG_ID`: given the same World answers, a core that differs
in nothing else makes the same step. The two cores have one record of calls, so that they share the model's World answers,
scripted and drawn (log 6): two Worlds that answer differently are not compared. -/
def Obligations.ConfigurationIsConstantAndIdUnreadable : Prop :=
  ∀ (s t : State) (n : Int), step s = .next t →
    t.cfg = s.cfg ∧
    step { s with cfg := { s.cfg with orgId := n } } = .next { t with cfg := { t.cfg with orgId := n } }

/-- R27 (decisions D14 to D17, D32): only CMP writes Less, Equal, Greater; only TEST, TRAVEL, SENSE, EAT and RELEASE write
Success. -/
def Obligations.OnlyNamedInstructionsWriteFlags : Prop :=
  ∀ (i : Instr) (s t : State), exec i s = .next t →
    ((t.flags.less ≠ s.flags.less ∨ t.flags.equal ≠ s.flags.equal ∨ t.flags.greater ≠ s.flags.greater) →
      ∃ a b, i = .cmp a b) ∧
    (t.flags.success ≠ s.flags.success →
      (∃ a b, i = .test a b) ∨ (∃ a, i = .travel a ∨ i = .sense a ∨ i = .release a) ∨ i = .eat)

/-- R26 (marked derived): only PUSH, POP, CALL and RET write the stack pointer, by one place or to 3600. -/
def Obligations.OnlyStackInstructionsMoveTheStackPointer : Prop :=
  ∀ (i : Instr) (s t : State), exec i s = .next t → t.sp ≠ s.sp →
    ((∃ a, i = .push a ∨ i = .call a) ∧ t.sp.toNat = (if s.sp = 0 then 3600 else s.sp.toNat - 1)) ∨
    (((∃ a, i = .pop a) ∨ i = .ret) ∧ t.sp.toNat = (if 3600 ≤ s.sp.toNat then 3600 else s.sp.toNat + 1))

/-- R21 (marked derived): an instruction changes no general register but those its written operands name. -/
def Obligations.RegistersChangeOnlyWhereNamed : Prop :=
  ∀ (i : Instr) (s t : State) (k : Nat), exec i s = .next t → t.regRead k ≠ s.regRead k →
    ∃ v : Word, v.toNat = k ∧ .register v ∈ destinations i

/-- R56, R64: a memory word changes only at a written operand's resolved address, at the new stack top of PUSH and CALL,
or, for an organism that is not immune, at the one address the World chose for the mutation inside an EAT. -/
def Obligations.MemoryChangesOnlyByStoresPushesAndMutation : Prop :=
  ∀ (i : Instr) (s t : State) (a : Int), exec i s = .next t → t.memRead a ≠ s.memRead a →
    (∃ o ∈ destinations i, resolve s o = .mem a) ∨
    ((∃ o, i = .push o ∨ i = .call o) ∧ a = t.sp.toNat) ∨
    (i = .eat ∧ s.cfg.immuneToMutation = false ∧ t.flags.success = true ∧
      ∃ e addr val : Word, t.world.log.head? = some (.consume e (some (addr, val))) ∧ a = addr.toNat)

/-- R228 (marked derived): the World calls each instruction makes, in order (the record has the newest first). -/
def Obligations.WorldCallsPerInstruction : Prop :=
  ∀ (i : Instr) (s t : State), exec i s = .next t →
    match i with
    | .getxy _ _ => t.world.log = .position s.world.x s.world.y :: s.world.log
    | .travel dir =>
      if s.energy.toNat < 10 then t.world.log = s.world.log
      else t.world.log = .attemptMove (BitVec.ofNat 2 (readOp s dir).toNat) t.flags.success :: s.world.log
    | .sense _ =>
      ∃ e, t.world.log = .elementAt s.world.x s.world.y e :: .position s.world.x s.world.y :: s.world.log
    | .eat => ∃ e, (t.flags.success = false ∧
          t.world.log = .elementAt s.world.x s.world.y e :: .position s.world.x s.world.y :: s.world.log) ∨
        (t.flags.success = true ∧ ∃ mutation, t.world.log =
          .consume e mutation :: .elementAt s.world.x s.world.y e :: .position s.world.x s.world.y :: s.world.log)
    | .release amt =>
      if (readOp s amt).toNat ≤ s.energy.toNat then t.world.log = .collect (readOp s amt) t.flags.success :: s.world.log
      else t.world.log = s.world.log
    | .rand _ max => ∃ v, t.world.log = .nextRandom (readOp s max) v :: s.world.log
    | _ => t.world = s.world

/-- R255 (decision D27): the organism's position changes only by a TRAVEL that succeeds. -/
def Obligations.PositionChangesOnlyByATravelThatSucceeds : Prop :=
  ∀ (i : Instr) (s t : State), exec i s = .next t → (t.world.x ≠ s.world.x ∨ t.world.y ≠ s.world.y) →
    (∃ dir, i = .travel dir) ∧ t.flags.success = true

/-- R29, R142, R225 (decisions D25, D29, D41): a step of a core with energy takes energy away, at least 1 and, unless it is
a RELEASE, at most 10; the one exception is an EAT that succeeds, which nets +1999. -/
def Obligations.EnergyFallsUnlessTheCoreEats : Prop :=
  ∀ s t : State, s.energy ≠ 0 → step s = .next t →
    (t.energy.toNat + 1 ≤ s.energy.toNat ∧
      ((∀ amt, fetchInstr s ≠ .ok (.release amt)) → s.energy.toNat ≤ t.energy.toNat + 10)) ∨
    (fetchInstr s = .ok .eat ∧ t.flags.success = true ∧ t.energy.toNat = s.energy.toNat + 1999)

/-- R145, R146 (marked derived), R30: a core that executes no successful EAT in its next `energy` ticks is frozen after
them. -/
def Obligations.CoreThatDoesNotEatFreezes : Prop :=
  ∀ s : State,
    (∀ k : Nat, k < s.energy.toNat → ∀ u t : State, Host.Core.run Sys2Proof.core k s = .next u → step u = .next t →
      u.energy ≠ 0 → fetchInstr u = .ok .eat → t.flags.success = false) →
    ∃ t : State, Host.Core.run Sys2Proof.core s.energy.toNat s = .next t ∧ t.energy = 0

/-- R63 (decision D39): what an instruction writes to memory is seen by the very next fetch, and the fetch sees nothing else
new. The word stored by MOV, pushed by PUSH and CALL, and mutated inside an EAT is named; for every other instruction with
one written operand it is the word at that operand's address after the step. -/
def Obligations.StoresAreSeenByTheNextFetch : Prop :=
  ∀ s : State,
    (∀ (dst src : Operand) (a : Int), resolve s dst = .mem a → InMemory a →
      ∃ t, exec (.mov dst src) s = .next t ∧ FetchSees s t a (readOp s src)) ∧
    (1 ≤ s.sp.toNat → s.sp.toNat ≤ 3600 → ∀ o : Operand,
      (∃ t, exec (.push o) s = .next t ∧ FetchSees s t (s.sp.toNat - 1) (readOp s o)) ∧
      (∃ t, exec (.call o) s = .next t ∧ FetchSees s t (s.sp.toNat - 1) (u16 (s.instrAddr + 3)))) ∧
    (∀ (i : Instr) (dst : Operand) (a : Int), destinations i = [dst] → resolve s dst = .mem a →
      ∃ t, exec i s = .next t ∧ FetchSees s t a (t.memRead a)) ∧
    (∀ (t : State) (e addr val : Word), exec .eat s = .next t → s.cfg.immuneToMutation = false →
      t.world.log.head? = some (.consume e (some (addr, val))) → addr.toNat < 3600 →
      FetchSees s t addr.toNat (s.memRead addr.toNat ^^^ val))

/-- R28, R265 (decisions D13, D45): the fields of the snapshot, with the flags at bits 0 to 3. -/
def Obligations.SnapshotShowsTheState : Prop :=
  ∀ s : State, s.snapshot.id = s.cfg.orgId ∧ s.snapshot.x = s.world.x ∧ s.snapshot.y = s.world.y ∧
    s.snapshot.energy = s.energy ∧ s.snapshot.ip = s.ip ∧ s.snapshot.sp = s.sp ∧
    (∀ i : Nat, (s.snapshot.registers[i]?).getD 0 = s.regRead i) ∧
    s.snapshot.flags.toNat = s.flags.success.toNat + 2 * s.flags.less.toNat + 4 * s.flags.equal.toNat +
      8 * s.flags.greater.toNat ∧
    s.snapshot.instruction = disassemble s.cfg.opcodeMap (fetch s) (u16 s.instrAddr)

/-! ### Data movement and stack -/

/-- R161, R241 to R244, whole: NOP and the four reserved opcodes change nothing but `ip` and `energy`; their canonical words
are the opcode number (of R92) and two zero words, and a word 0 with that low byte is the instruction whatever else it
holds. -/
def Obligations.NopAndReservedOpcodesOnlyAdvance : Prop :=
  ∀ (i : Instr) (n : Nat),
    (i, n) ∈ [(Instr.nop, 0), (Instr.charge, 34), (Instr.poke, 35), (Instr.peek, 36), (Instr.cksum, 37)] →
    (∀ ip : Word, encode Config.opcodeMap i ip = ⟨u16 n, 0, 0⟩) ∧
    (∀ (w : Words) (ip : Word), w.w0.toNat % 256 = n → decode Config.opcodeMap w ip = .ok i) ∧
    (∀ s : State, ∃ t, exec i s = .next t ∧
      t = { s with ip := normIp (s.instrAddr + 3), energy := t.energy } ∧ t.energy.toNat = s.energy.toNat - 1)

/-- R162, whole: MOV writes the source's word to the destination and changes nothing else. -/
def Obligations.MovWritesTheSource : Prop :=
  ∀ (dst src : Operand) (s : State), HasOpcode (.mov dst src) 1 ∧
    ∃ t, exec (.mov dst src) s = .next t ∧
      Stored s t (resolve s dst) (readOp s src) ∧ KeepsTheRest s t ∧ Advanced s t

/-- R163, R165 (decision D19): PUSH moves `sp` down by one, from 0 to 3600, and stores the word at the new `sp` if that is
an address; the memory elsewhere, the registers and the flags keep. -/
def Obligations.PushStoresBelowTheStackPointer : Prop :=
  ∀ (src : Operand) (s : State), ∃ t, exec (.push src) s = .next t ∧
    t.sp.toNat = (if s.sp = 0 then 3600 else s.sp.toNat - 1) ∧
    (∀ a : Int, t.memRead a = if a = t.sp.toNat ∧ InMemory a then readOp s src else s.memRead a) ∧
    (∀ i : Nat, t.regRead i = s.regRead i) ∧
    t.cfg = s.cfg ∧ t.flags = s.flags ∧ t.world = s.world ∧ Advanced s t

/-- R164, R165 (decision D19): POP writes the word at the old `sp` (0 on an empty stack) to the destination resolved before
the pop, and moves `sp` up by one, not past 3600. -/
def Obligations.PopTakesTheTopOfTheStack : Prop :=
  ∀ (dst : Operand) (s : State), ∃ t, exec (.pop dst) s = .next t ∧
    t.sp.toNat = (if 3600 ≤ s.sp.toNat then 3600 else s.sp.toNat + 1) ∧
    Stored s t (resolve s dst) (s.memRead s.sp.toNat) ∧
    t.cfg = s.cfg ∧ t.flags = s.flags ∧ t.world = s.world ∧ Advanced s t

/-! ### Control transfer -/

/-- R171 (decision D20): CALL pushes the unreduced return address and goes to the target it read before the push. -/
def Obligations.CallPushesTheReturnAddress : Prop :=
  ∀ (addr : Operand) (s : State), ∃ t, exec (.call addr) s = .next t ∧
    t.sp.toNat = (if s.sp = 0 then 3600 else s.sp.toNat - 1) ∧
    (∀ a : Int, t.memRead a = if a = t.sp.toNat ∧ InMemory a then u16 (s.instrAddr + 3) else s.memRead a) ∧
    (∀ i : Nat, t.regRead i = s.regRead i) ∧
    t.cfg = s.cfg ∧ t.flags = s.flags ∧ t.world = s.world ∧ EndsAt s t (readOp s addr).toNat 1

/-- R172 (decision D20): RET goes to the word at `sp`, normalised, and moves `sp` up by one, not past 3600. -/
def Obligations.RetGoesToThePoppedWord : Prop :=
  ∀ s : State, ∃ t, exec .ret s = .next t ∧
    t.sp.toNat = (if 3600 ≤ s.sp.toNat then 3600 else s.sp.toNat + 1) ∧
    SameStore s t ∧ t.cfg = s.cfg ∧ t.flags = s.flags ∧ t.world = s.world ∧
    EndsAt s t (s.memRead s.sp.toNat).toNat 1

/-- R173, whole: JMP always goes to its target; nothing else changes but the energy; an Immediate is stored relative and
decoding and disassembling at the same address report the target again, whatever the address. -/
def Obligations.JmpGoesToItsTarget : Prop :=
  ∀ (addr : Operand) (s : State), HasOpcode (.jmp addr) 6 ∧
    (∀ (map : OpcodeMap) (target ip : Word), OpcodeMap.wf map = true →
      (encode map (.jmp (.immediate target)) ip).w1 = target - ip ∧
      decode map (encode map (.jmp (.immediate target)) ip) ip = .ok (.jmp (.immediate target)) ∧
      disassembleChars map (encode map (.jmp (.immediate target)) ip) ip = "JMP ".toList ++ decimal target.toNat) ∧
    ∃ t, exec (.jmp addr) s = .next t ∧ SameStore s t ∧ KeepsTheRest s t ∧ EndsAt s t (readOp s addr).toNat 1

/-- R182, R174 to R181 (decision D14): each conditional jump goes to its target exactly if its condition on the flags
holds, and advances otherwise; nothing else changes but the energy. -/
def Obligations.ConditionalJumpsFollowTheirFlags : Prop :=
  ∀ (i : Instr) (n : Nat) (taken : Bool) (addr : Operand) (s : State),
    (i, n, taken) ∈ [(Instr.jl addr, 7, s.flags.less), (Instr.jle addr, 8, s.flags.less || s.flags.equal),
      (Instr.jg addr, 9, s.flags.greater), (Instr.jge addr, 10, s.flags.greater || s.flags.equal),
      (Instr.je addr, 11, s.flags.equal), (Instr.jne addr, 12, !s.flags.equal),
      (Instr.js addr, 13, s.flags.success), (Instr.jns addr, 14, !s.flags.success)] →
    HasOpcode i n ∧
    ∃ t, exec i s = .next t ∧ SameStore s t ∧ KeepsTheRest s t ∧
      EndsAt s t (if taken then (readOp s addr).toNat else s.instrAddr + 3) 1

/-! ### Arithmetic, logic, compare, test -/

/-- R191, R192, R193, whole: the exact sum, difference and product of the old values, reduced modulo 65536, go to the
destination; nothing else changes. -/
def Obligations.AddSubMultReduceModulo65536 : Prop :=
  ∀ (i : Instr) (n result : Nat) (dst src : Operand) (s : State),
    (i, n, result) ∈ [
      (Instr.add dst src, 15, ((readOp s dst).toNat + (readOp s src).toNat) % 65536),
      (Instr.sub dst src, 16, ((readOp s dst).toNat + 65536 - (readOp s src).toNat) % 65536),
      (Instr.mult dst src, 17, ((readOp s dst).toNat * (readOp s src).toNat) % 65536)] →
    HasOpcode i n ∧
    ∃ t, exec i s = .next t ∧ Stored s t (resolve s dst) (u16 result) ∧ KeepsTheRest s t ∧ Advanced s t

/-- R194, R195 (decision D42): DIV and MOD write the floor quotient and the unsigned remainder; with a zero divisor they
write nothing, at the same cost. -/
def Obligations.DivAndModSkipAZeroDivisor : Prop :=
  ∀ (i : Instr) (n result : Nat) (dst src : Operand) (s : State),
    (i, n, result) ∈ [
      (Instr.div dst src, 18, (readOp s dst).toNat / (readOp s src).toNat),
      (Instr.mod dst src, 19,
        (readOp s dst).toNat - (readOp s src).toNat * ((readOp s dst).toNat / (readOp s src).toNat))] →
    HasOpcode i n ∧
    ∃ t, exec i s = .next t ∧ KeepsTheRest s t ∧ Advanced s t ∧
      (readOp s src = 0 → SameStore s t) ∧
      (readOp s src ≠ 0 → Stored s t (resolve s dst) (u16 result))

/-- R196, R197, R198, whole: the result has in every bit the AND, OR or XOR of the operands' bits; nothing else changes. -/
def Obligations.AndOrXorWorkBitByBit : Prop :=
  ∀ (i : Instr) (n : Nat) (f : Bool → Bool → Bool) (dst src : Operand) (s : State),
    (i, n, f) ∈ [(Instr.and dst src, 20, Bool.and), (Instr.or dst src, 21, Bool.or), (Instr.xor dst src, 22, Bool.xor)] →
    HasOpcode i n ∧
    ∃ t result, exec i s = .next t ∧ Stored s t (resolve s dst) result ∧ KeepsTheRest s t ∧ Advanced s t ∧
      (∀ k : Nat, k < 16 → result.getLsbD k = f ((readOp s dst).getLsbD k) ((readOp s src).getLsbD k))

/-- R199, R200, R201 (decision D18): SHL multiplies by, SHR divides by, two to the count that `SHIFT_MODE` makes of the
source; the result is reduced modulo 65536, so a count of 16 or more gives 0. -/
def Obligations.ShiftsMultiplyAndDivideByPowersOfTwo : Prop :=
  ∀ (i : Instr) (n result : Nat) (dst src : Operand) (s : State),
    (i, n, result) ∈ [
      (Instr.shl dst src, 28, (readOp s dst).toNat * 2 ^ modedCount s.cfg.shiftMode (readOp s src).toNat % 65536),
      (Instr.shr dst src, 29, (readOp s dst).toNat / 2 ^ modedCount s.cfg.shiftMode (readOp s src).toNat)] →
    HasOpcode i n ∧
    ∃ t, exec i s = .next t ∧ Stored s t (resolve s dst) (u16 result) ∧ KeepsTheRest s t ∧ Advanced s t

/-- R211 (decision D15): CMP sets exactly one of Less, Equal, Greater by the unsigned order of operand 1 and operand 2,
keeps Success, and changes nothing else. -/
def Obligations.CmpSetsExactlyOneComparisonFlag : Prop :=
  ∀ (op1 op2 : Operand) (s : State), HasOpcode (.cmp op1 op2) 23 ∧
    ∃ t, exec (.cmp op1 op2) s = .next t ∧ SameStore s t ∧
      t.cfg = s.cfg ∧ t.sp = s.sp ∧ t.world = s.world ∧ Advanced s t ∧
      t.flags.success = s.flags.success ∧
      (t.flags.less = true ↔ (readOp s op1).toNat < (readOp s op2).toNat) ∧
      (t.flags.equal = true ↔ (readOp s op1).toNat = (readOp s op2).toNat) ∧
      (t.flags.greater = true ↔ (readOp s op1).toNat > (readOp s op2).toNat) ∧
      (t.flags.less.toNat + t.flags.equal.toNat + t.flags.greater.toNat = 1)

/-- R212 (decision D16): TEST sets Success if the operands have no bit in common and clears it otherwise, and changes
nothing else. -/
def Obligations.TestSetsSuccessIfNoBitIsCommon : Prop :=
  ∀ (op1 op2 : Operand) (s : State), HasOpcode (.test op1 op2) 24 ∧
    ∃ t, exec (.test op1 op2) s = .next t ∧ SameStore s t ∧
      t.cfg = s.cfg ∧ t.sp = s.sp ∧ t.world = s.world ∧ Advanced s t ∧
      t.flags.less = s.flags.less ∧ t.flags.equal = s.flags.equal ∧ t.flags.greater = s.flags.greater ∧
      (t.flags.success = true ↔ ∀ k : Nat, k < 16 → ¬((readOp s op1).getLsbD k = true ∧ (readOp s op2).getLsbD k = true))

/-! ### World-touching instructions -/

/-- R221 (decisions D27, D32): GETXY writes `x` to operand 1, then `y` to operand 2, at destinations resolved before. -/
def Obligations.GetxyWritesThePosition : Prop :=
  ∀ (dst dst2 : Operand) (s : State), HasOpcode (.getxy dst dst2) 25 ∧
    ∃ m t, exec (.getxy dst dst2) s = .next t ∧
      Stored s m (resolve s dst) s.world.x ∧ Stored m t (resolve s dst2) s.world.y ∧
      t.cfg = s.cfg ∧ t.sp = s.sp ∧ t.flags = s.flags ∧
      t.world = { s.world with log := .position s.world.x s.world.y :: s.world.log } ∧ Advanced s t

/-- R222 (decision D41): ENERGY writes the energy before the step's cost. -/
def Obligations.EnergyWritesTheCounterBeforeTheCost : Prop :=
  ∀ (dst : Operand) (s : State), HasOpcode (.energy dst) 26 ∧
    ∃ t, exec (.energy dst) s = .next t ∧
      Stored s t (resolve s dst) s.energy ∧ KeepsTheRest s t ∧ Advanced s t

/-- R223 (decision D28): with 10 energy or more TRAVEL asks the World for direction `dir mod 4`, reports the answer in
Success and costs 10 if it moved, else 1; below 10 it asks nothing and fails at cost 1. -/
def Obligations.TravelAsksTheWorldToMove : Prop :=
  ∀ (dir : Operand) (s : State), HasOpcode (.travel dir) 27 ∧
    (10 ≤ s.energy.toNat → ∃ ok world t,
      askMove s.cfg s.world (BitVec.ofNat 2 ((readOp s dir).toNat % 4)) = (ok, world) ∧
      exec (.travel dir) s = .next t ∧ SameStore s t ∧ t.cfg = s.cfg ∧ t.sp = s.sp ∧ t.world = world ∧
      t.flags = { s.flags with success := ok } ∧ EndsAt s t (s.instrAddr + 3) (if ok then 10 else 1)) ∧
    (s.energy.toNat < 10 → ∃ t, exec (.travel dir) s = .next t ∧ SameStore s t ∧ t.cfg = s.cfg ∧ t.sp = s.sp ∧
      t.world = s.world ∧ t.flags = { s.flags with success := false } ∧ Advanced s t)

/-- R224 (decision D32): SENSE writes the element code under the organism and reports in Success whether it is not empty. -/
def Obligations.SenseWritesTheElementCode : Prop :=
  ∀ (dst : Operand) (s : State), HasOpcode (.sense dst) 30 ∧
    ∃ e t, exec (.sense dst) s = .next t ∧ e = elementUnder s.world ∧ Stored s t (resolve s dst) e ∧
      t.cfg = s.cfg ∧ t.sp = s.sp ∧ t.world = portAfterLook s.world ∧ t.world.x = s.world.x ∧ t.world.y = s.world.y ∧
      t.world.log = .elementAt s.world.x s.world.y e :: .position s.world.x s.world.y :: s.world.log ∧
      t.flags.less = s.flags.less ∧ t.flags.equal = s.flags.equal ∧ t.flags.greater = s.flags.greater ∧
      (t.flags.success = true ↔ e ≠ 0) ∧ Advanced s t

/-- R225, R261 (decisions D29, D33): EAT on a cell with food and energy at most 63535 nets +1999, sets Success, and XORs at
most the one word the World chose, none if immune; otherwise it clears Success, costs 1 and changes nothing else. -/
def Obligations.EatGrantsEnergyAndMayMutate : Prop :=
  ∀ s : State, HasOpcode .eat 31 ∧
    ((elementUnder s.world = 0 ∨ elementUnder s.world = 0xFFFF ∨ 63535 < s.energy.toNat) →
      ∃ t, exec .eat s = .next t ∧ SameStore s t ∧ t.cfg = s.cfg ∧ t.sp = s.sp ∧
        t.world = portAfterLook s.world ∧ t.world.x = s.world.x ∧ t.world.y = s.world.y ∧
        t.world.log = .elementAt s.world.x s.world.y (elementUnder s.world) ::
          .position s.world.x s.world.y :: s.world.log ∧
        t.flags = { s.flags with success := false } ∧ Advanced s t) ∧
    (elementUnder s.world ≠ 0 → elementUnder s.world ≠ 0xFFFF → s.energy.toNat ≤ 63535 →
      ∃ mutation world t, askConsume (portAfterLook s.world) (elementUnder s.world) = (mutation, world) ∧
        exec .eat s = .next t ∧ t.world = world ∧ (∀ i : Nat, t.regRead i = s.regRead i) ∧ t.cfg = s.cfg ∧ t.sp = s.sp ∧
        t.world.x = s.world.x ∧ t.world.y = s.world.y ∧
        t.world.log.head? = some (.consume (elementUnder s.world) mutation) ∧
        t.flags = { s.flags with success := true } ∧
        t.ip = normIp (s.instrAddr + 3) ∧ t.energy.toNat = s.energy.toNat + 1999 ∧
        (mutation = none ∨ s.cfg.immuneToMutation = true → ∀ a : Int, t.memRead a = s.memRead a) ∧
        (∀ addr val : Word, mutation = some (addr, val) → s.cfg.immuneToMutation = false →
          ∀ a : Int, t.memRead a = if a = addr.toNat ∧ InMemory a then s.memRead a ^^^ val else s.memRead a))

/-- R226 (decision D30): with `amt` at most the energy RELEASE asks the World to collect; granted, the energy falls by `amt`
and the cost, saturating at 0, Success is set and the score grows by `amt`; refused, or with `amt` above the energy (the
World is then not asked), Success is cleared at cost 1. Less, Equal, Greater keep. -/
def Obligations.ReleaseDepositsEnergy : Prop :=
  ∀ (amt : Operand) (s : State), HasOpcode (.release amt) 33 ∧
    ((readOp s amt).toNat ≤ s.energy.toNat → ∃ ok world t,
      askCollect s.world (readOp s amt) = (ok, world) ∧
      exec (.release amt) s = .next t ∧ SameStore s t ∧ t.cfg = s.cfg ∧ t.sp = s.sp ∧ t.world = world ∧
      t.flags = { s.flags with success := ok } ∧ t.ip = normIp (s.instrAddr + 3) ∧
      t.energy.toNat = s.energy.toNat - (if ok then (readOp s amt).toNat else 0) - 1 ∧
      scoreOf t.world.log = scoreOf s.world.log + (if ok then (readOp s amt).toNat else 0)) ∧
    (s.energy.toNat < (readOp s amt).toNat → ∃ t, exec (.release amt) s = .next t ∧ SameStore s t ∧ t.cfg = s.cfg ∧
      t.sp = s.sp ∧ t.world = s.world ∧ t.flags = { s.flags with success := false } ∧ Advanced s t)

/-- R227, R256 (decisions D31, D43): RAND asks the World for every bound and writes an answer below the bound, 0 for 0. -/
def Obligations.RandStaysBelowItsBound : Prop :=
  ∀ (dst max : Operand) (s : State), HasOpcode (.rand dst max) 32 ∧
    ∃ v world t, askRandom s.world (readOp s max) = (v, world) ∧
      exec (.rand dst max) s = .next t ∧ Stored s t (resolve s dst) v ∧
      (readOp s max = 0 → v = 0) ∧ (readOp s max ≠ 0 → v.toNat < (readOp s max).toNat) ∧
      t.world = world ∧ t.world.log = .nextRandom (readOp s max) v :: s.world.log ∧
      t.cfg = s.cfg ∧ t.sp = s.sp ∧ t.flags = s.flags ∧ Advanced s t

/-- R6 (grid width and height), R221, R223, R256 (decisions D27, D28): from a position on the grid every instruction ends on the
grid, GETXY writes an `x` below the width and a `y` below the height, and a TRAVEL the environment would lead off the grid
fails, at cost 1. That coordinates count from 0 is the model's choice (log 22). -/
def Obligations.TheOrganismStaysOnTheGrid : Prop :=
  ∀ s : State, s.OnGrid →
    (∀ (i : Instr) (t : State), exec i s = .next t → t.OnGrid) ∧
    (∀ dst dst2 : Operand, ∃ x y m t, exec (.getxy dst dst2) s = .next t ∧
      Stored s m (resolve s dst) x ∧ Stored m t (resolve s dst2) y ∧
      x.toNat < s.cfg.gridWidth ∧ y.toNat < s.cfg.gridHeight) ∧
    (∀ (dir : Operand) (x y : Word) (rest : List Answer), 10 ≤ s.energy.toNat →
      s.world.script = .move (some (x, y)) :: rest → (s.cfg.gridWidth ≤ x.toNat ∨ s.cfg.gridHeight ≤ y.toNat) →
      ∃ t, exec (.travel dir) s = .next t ∧ SameStore s t ∧ t.cfg = s.cfg ∧ t.sp = s.sp ∧
        t.flags = { s.flags with success := false } ∧ t.world.x = s.world.x ∧ t.world.y = s.world.y ∧
        t.world.script = rest ∧ Advanced s t)
end

