-- ==== Sys2Proof/Laws/Codec.lean ====
section
/-! SUPPORT. The opcode map read in both directions; the fields of word 0 and of an indexed payload: placed and read back, bit by bit. -/

namespace Sys2Proof

/-- Bit `i` of a field of a word. -/
theorem getLsbD_field (w : Word) (pos width i : Nat) :
    (field w pos width).getLsbD i = (decide (i < width) && w.getLsbD (pos + i)) := by
  simp [field]

/-- Bit `i` of a word that holds a placed field. -/
theorem getLsbD_place {width : Nat} (v : BitVec width) (pos i : Nat) :
    (place v pos).getLsbD i = (decide (i < 16) && (decide (pos ≤ i) && v.getLsbD (i - pos))) := by
  simp only [place, BitVec.getLsbD_shiftLeft, BitVec.getLsbD_setWidth]
  by_cases h : i < 16
  · have h' : i - pos < 16 := by omega
    by_cases hp : pos ≤ i
    · simp [h, h', hp, Nat.not_lt.2 hp]
    · simp [h, hp, Nat.lt_of_not_le hp]
  · simp [h]

/-- Every field of the word 0 that R81 builds reads back as it was placed, and bits 9:8 are clear. -/
theorem field_word0 (m1 m2 : BitVec 2) (s1 s2 : BitVec 1) (op : BitVec 8) :
    let w := place m1 mode1Pos ||| place m2 mode2Pos ||| place s1 sub1Pos ||| place s2 sub2Pos ||| place op opcodePos
    field w mode1Pos 2 = m1 ∧ field w mode2Pos 2 = m2 ∧ field w sub1Pos 1 = s1 ∧ field w sub2Pos 1 = s2 ∧
      field w opcodePos 8 = op ∧ field w 8 2 = 0#2 := by
  refine ⟨?_, ?_, ?_, ?_, ?_, ?_⟩ <;> apply BitVec.eq_of_getLsbD_eq <;> intro i hi <;> interval_cases i <;>
    simp only [getLsbD_field, BitVec.getLsbD_or, getLsbD_place, mode1Pos, mode2Pos, sub1Pos, sub2Pos, opcodePos] <;> simp

/-- The two fields of an indexed payload read back as they were placed (R87). -/
theorem field_payload (reg : BitVec 4) (off : BitVec 12) :
    let w := place reg regPos ||| place off offsetPos
    field w regPos 4 = reg ∧ field w offsetPos 12 = off := by
  refine ⟨?_, ?_⟩ <;> apply BitVec.eq_of_getLsbD_eq <;> intro i hi <;> interval_cases i <;>
    simp only [getLsbD_field, BitVec.getLsbD_or, getLsbD_place, regPos, offsetPos] <;> simp

/-- An indexed payload is its two fields (R87). -/
theorem payload_of_fields (w : Word) :
    place (field w regPos 4) regPos ||| place (field w offsetPos 12) offsetPos = w := by
  apply BitVec.eq_of_getLsbD_eq
  intro i hi
  interval_cases i <;> simp only [getLsbD_field, BitVec.getLsbD_or, getLsbD_place, regPos, offsetPos] <;> simp

/-- Word 0 is its six fields (R81). -/
theorem word0_of_fields (w : Word) :
    place (field w mode1Pos 2) mode1Pos ||| place (field w mode2Pos 2) mode2Pos ||| place (field w sub1Pos 1) sub1Pos |||
      place (field w sub2Pos 1) sub2Pos ||| place (field w opcodePos 8) opcodePos ||| place (field w 8 2) 8 = w := by
  apply BitVec.eq_of_getLsbD_eq
  intro i hi
  interval_cases i <;>
    simp only [getLsbD_field, BitVec.getLsbD_or, getLsbD_place, mode1Pos, mode2Pos, sub1Pos, sub2Pos, opcodePos] <;> simp

/-- A map of R6 holds every mnemonic once, at 38 places. -/
theorem opcodeMap_facts {map : OpcodeMap} (h : OpcodeMap.wf map = true) :
    map.length = 38 ∧ map.Nodup ∧ ∀ m, m ∈ map := by
  rw [OpcodeMap.wf, Bool.and_eq_true, decide_eq_true_iff, decide_eq_true_iff] at h
  have all : ∀ m, m ∈ Config.opcodeMap := fun m => by cases m <;> decide
  have p : map.Perm Config.opcodeMap :=
    (List.subperm_of_subset h.2 fun m _ => all m).perm_of_length_le (by rw [h.1]; decide)
  exact ⟨h.1, h.2, fun m => p.mem_iff.2 (all m)⟩

/-- The number of a mnemonic is below 38. -/
theorem opcodeNumber_toNat {map : OpcodeMap} (h : OpcodeMap.wf map = true) (m : Mnemonic) :
    (opcodeNumber map m).toNat = map.idxOf m ∧ (opcodeNumber map m).toNat < 38 := by
  have hl := List.idxOf_lt_length_of_mem ((opcodeMap_facts h).2.2 m)
  rw [(opcodeMap_facts h).1] at hl
  have : (opcodeNumber map m).toNat = map.idxOf m := by
    rw [opcodeNumber, BitVec.toNat_ofNat, Nat.mod_eq_of_lt (by omega)]
  exact ⟨this, by omega⟩

/-- The number of a mnemonic reads back as the mnemonic (R6: a bijection). -/
theorem opcodeMnemonic_opcodeNumber {map : OpcodeMap} (h : OpcodeMap.wf map = true) (m : Mnemonic) :
    opcodeMnemonic map (opcodeNumber map m) = some m := by
  rw [opcodeMnemonic, (opcodeNumber_toNat h m).1]
  exact List.getElem?_idxOf ((opcodeMap_facts h).2.2 m)

/-- An opcode byte up to 37 has a mnemonic, whose number it is; a byte above has none (R92, R95). -/
theorem opcodeMnemonic_cases {map : OpcodeMap} (h : OpcodeMap.wf map = true) (n : BitVec 8) :
    (n.toNat ≤ 37 ∧ ∃ m, opcodeMnemonic map n = some m ∧ opcodeNumber map m = n) ∨
      (37 < n.toNat ∧ opcodeMnemonic map n = none) := by
  obtain ⟨hl, hn, _⟩ := opcodeMap_facts h
  by_cases hk : n.toNat < map.length
  · refine .inl ⟨by omega, _, List.getElem?_eq_getElem hk, BitVec.eq_of_toNat_eq ?_⟩
    rw [(opcodeNumber_toNat h _).1]
    exact hn.idxOf_getElem _ hk
  · exact .inr ⟨by omega, List.getElem?_eq_none (by omega)⟩

/-- An instruction is rebuilt from its mnemonic and slots (R92). -/
theorem instrNamed_of_slots (i : Instr) : instrNamed (mnemonicOf i) (slotsOf i).1 (slotsOf i).2 = i := by cases i <;> rfl

/-- The mnemonic of an instruction built from a mnemonic (R92). -/
theorem mnemonicOf_instrNamed (m : Mnemonic) (o1 o2 : Operand) : mnemonicOf (instrNamed m o1 o2) = m := by
  cases m <;> rfl

end Sys2Proof
end

