-- ==== Sys2Proof/Laws/State.lean ====
section
/-! SUPPORT. One lemma per field per plain update of State, true by rfl. -/

namespace Sys2Proof.Machine

variable (s : State)

@[simp] theorem State.withRegs_cfg (v : Vector Word 14) : (s.withRegs v).cfg = s.cfg := rfl
@[simp] theorem State.withRegs_regs (v : Vector Word 14) : (s.withRegs v).regs = v := rfl
@[simp] theorem State.withRegs_ip (v : Vector Word 14) : (s.withRegs v).ip = s.ip := rfl
@[simp] theorem State.withRegs_sp (v : Vector Word 14) : (s.withRegs v).sp = s.sp := rfl
@[simp] theorem State.withRegs_flags (v : Vector Word 14) : (s.withRegs v).flags = s.flags := rfl
@[simp] theorem State.withRegs_energy (v : Vector Word 14) : (s.withRegs v).energy = s.energy := rfl
@[simp] theorem State.withRegs_mem (v : Vector Word 14) : (s.withRegs v).mem = s.mem := rfl
@[simp] theorem State.withRegs_world (v : Vector Word 14) : (s.withRegs v).world = s.world := rfl

@[simp] theorem State.withIp_cfg (v : Word) : (s.withIp v).cfg = s.cfg := rfl
@[simp] theorem State.withIp_regs (v : Word) : (s.withIp v).regs = s.regs := rfl
@[simp] theorem State.withIp_ip (v : Word) : (s.withIp v).ip = v := rfl
@[simp] theorem State.withIp_sp (v : Word) : (s.withIp v).sp = s.sp := rfl
@[simp] theorem State.withIp_flags (v : Word) : (s.withIp v).flags = s.flags := rfl
@[simp] theorem State.withIp_energy (v : Word) : (s.withIp v).energy = s.energy := rfl
@[simp] theorem State.withIp_mem (v : Word) : (s.withIp v).mem = s.mem := rfl
@[simp] theorem State.withIp_world (v : Word) : (s.withIp v).world = s.world := rfl

@[simp] theorem State.withSp_cfg (v : Word) : (s.withSp v).cfg = s.cfg := rfl
@[simp] theorem State.withSp_regs (v : Word) : (s.withSp v).regs = s.regs := rfl
@[simp] theorem State.withSp_ip (v : Word) : (s.withSp v).ip = s.ip := rfl
@[simp] theorem State.withSp_sp (v : Word) : (s.withSp v).sp = v := rfl
@[simp] theorem State.withSp_flags (v : Word) : (s.withSp v).flags = s.flags := rfl
@[simp] theorem State.withSp_energy (v : Word) : (s.withSp v).energy = s.energy := rfl
@[simp] theorem State.withSp_mem (v : Word) : (s.withSp v).mem = s.mem := rfl
@[simp] theorem State.withSp_world (v : Word) : (s.withSp v).world = s.world := rfl

@[simp] theorem State.withFlags_cfg (v : Flags) : (s.withFlags v).cfg = s.cfg := rfl
@[simp] theorem State.withFlags_regs (v : Flags) : (s.withFlags v).regs = s.regs := rfl
@[simp] theorem State.withFlags_ip (v : Flags) : (s.withFlags v).ip = s.ip := rfl
@[simp] theorem State.withFlags_sp (v : Flags) : (s.withFlags v).sp = s.sp := rfl
@[simp] theorem State.withFlags_flags (v : Flags) : (s.withFlags v).flags = v := rfl
@[simp] theorem State.withFlags_energy (v : Flags) : (s.withFlags v).energy = s.energy := rfl
@[simp] theorem State.withFlags_mem (v : Flags) : (s.withFlags v).mem = s.mem := rfl
@[simp] theorem State.withFlags_world (v : Flags) : (s.withFlags v).world = s.world := rfl

@[simp] theorem State.withEnergy_cfg (v : Word) : (s.withEnergy v).cfg = s.cfg := rfl
@[simp] theorem State.withEnergy_regs (v : Word) : (s.withEnergy v).regs = s.regs := rfl
@[simp] theorem State.withEnergy_ip (v : Word) : (s.withEnergy v).ip = s.ip := rfl
@[simp] theorem State.withEnergy_sp (v : Word) : (s.withEnergy v).sp = s.sp := rfl
@[simp] theorem State.withEnergy_flags (v : Word) : (s.withEnergy v).flags = s.flags := rfl
@[simp] theorem State.withEnergy_energy (v : Word) : (s.withEnergy v).energy = v := rfl
@[simp] theorem State.withEnergy_mem (v : Word) : (s.withEnergy v).mem = s.mem := rfl
@[simp] theorem State.withEnergy_world (v : Word) : (s.withEnergy v).world = s.world := rfl

@[simp] theorem State.withMem_cfg (v : Memory) : (s.withMem v).cfg = s.cfg := rfl
@[simp] theorem State.withMem_regs (v : Memory) : (s.withMem v).regs = s.regs := rfl
@[simp] theorem State.withMem_ip (v : Memory) : (s.withMem v).ip = s.ip := rfl
@[simp] theorem State.withMem_sp (v : Memory) : (s.withMem v).sp = s.sp := rfl
@[simp] theorem State.withMem_flags (v : Memory) : (s.withMem v).flags = s.flags := rfl
@[simp] theorem State.withMem_energy (v : Memory) : (s.withMem v).energy = s.energy := rfl
@[simp] theorem State.withMem_mem (v : Memory) : (s.withMem v).mem = v := rfl
@[simp] theorem State.withMem_world (v : Memory) : (s.withMem v).world = s.world := rfl

@[simp] theorem State.withWorld_cfg (v : WorldPort) : (s.withWorld v).cfg = s.cfg := rfl
@[simp] theorem State.withWorld_regs (v : WorldPort) : (s.withWorld v).regs = s.regs := rfl
@[simp] theorem State.withWorld_ip (v : WorldPort) : (s.withWorld v).ip = s.ip := rfl
@[simp] theorem State.withWorld_sp (v : WorldPort) : (s.withWorld v).sp = s.sp := rfl
@[simp] theorem State.withWorld_flags (v : WorldPort) : (s.withWorld v).flags = s.flags := rfl
@[simp] theorem State.withWorld_energy (v : WorldPort) : (s.withWorld v).energy = s.energy := rfl
@[simp] theorem State.withWorld_mem (v : WorldPort) : (s.withWorld v).mem = s.mem := rfl
@[simp] theorem State.withWorld_world (v : WorldPort) : (s.withWorld v).world = v := rfl

@[simp] theorem Flags.setSuccess_success (f : Flags) (b : Bool) : (f.setSuccess b).success = b := rfl
@[simp] theorem Flags.setSuccess_less (f : Flags) (b : Bool) : (f.setSuccess b).less = f.less := rfl
@[simp] theorem Flags.setSuccess_equal (f : Flags) (b : Bool) : (f.setSuccess b).equal = f.equal := rfl
@[simp] theorem Flags.setSuccess_greater (f : Flags) (b : Bool) : (f.setSuccess b).greater = f.greater := rfl

@[simp] theorem State.regWrite_cfg (i : Nat) (v : Word) : (s.regWrite i v).cfg = s.cfg := rfl
@[simp] theorem State.regWrite_regs (i : Nat) (v : Word) : (s.regWrite i v).regs = s.regs.setIfInBounds i v := rfl
@[simp] theorem State.regWrite_ip (i : Nat) (v : Word) : (s.regWrite i v).ip = s.ip := rfl
@[simp] theorem State.regWrite_sp (i : Nat) (v : Word) : (s.regWrite i v).sp = s.sp := rfl
@[simp] theorem State.regWrite_flags (i : Nat) (v : Word) : (s.regWrite i v).flags = s.flags := rfl
@[simp] theorem State.regWrite_energy (i : Nat) (v : Word) : (s.regWrite i v).energy = s.energy := rfl
@[simp] theorem State.regWrite_mem (i : Nat) (v : Word) : (s.regWrite i v).mem = s.mem := rfl
@[simp] theorem State.regWrite_world (i : Nat) (v : Word) : (s.regWrite i v).world = s.world := rfl

@[simp] theorem State.memWrite_cfg (a : Int) (v : Word) : (s.memWrite a v).cfg = s.cfg := rfl
@[simp] theorem State.memWrite_regs (a : Int) (v : Word) : (s.memWrite a v).regs = s.regs := rfl
@[simp] theorem State.memWrite_ip (a : Int) (v : Word) : (s.memWrite a v).ip = s.ip := rfl
@[simp] theorem State.memWrite_sp (a : Int) (v : Word) : (s.memWrite a v).sp = s.sp := rfl
@[simp] theorem State.memWrite_flags (a : Int) (v : Word) : (s.memWrite a v).flags = s.flags := rfl
@[simp] theorem State.memWrite_energy (a : Int) (v : Word) : (s.memWrite a v).energy = s.energy := rfl
@[simp] theorem State.memWrite_mem (a : Int) (v : Word) : (s.memWrite a v).mem = memStore s.mem a v := rfl
@[simp] theorem State.memWrite_world (a : Int) (v : Word) : (s.memWrite a v).world = s.world := rfl

@[simp] theorem State.setSuccess_cfg (b : Bool) : (s.setSuccess b).cfg = s.cfg := rfl
@[simp] theorem State.setSuccess_regs (b : Bool) : (s.setSuccess b).regs = s.regs := rfl
@[simp] theorem State.setSuccess_ip (b : Bool) : (s.setSuccess b).ip = s.ip := rfl
@[simp] theorem State.setSuccess_sp (b : Bool) : (s.setSuccess b).sp = s.sp := rfl
@[simp] theorem State.setSuccess_flags (b : Bool) : (s.setSuccess b).flags = s.flags.setSuccess b := rfl
@[simp] theorem State.setSuccess_energy (b : Bool) : (s.setSuccess b).energy = s.energy := rfl
@[simp] theorem State.setSuccess_mem (b : Bool) : (s.setSuccess b).mem = s.mem := rfl
@[simp] theorem State.setSuccess_world (b : Bool) : (s.setSuccess b).world = s.world := rfl

@[simp] theorem State.consumeEnergy_cfg (c : Nat) : (s.consumeEnergy c).cfg = s.cfg := rfl
@[simp] theorem State.consumeEnergy_regs (c : Nat) : (s.consumeEnergy c).regs = s.regs := rfl
@[simp] theorem State.consumeEnergy_ip (c : Nat) : (s.consumeEnergy c).ip = s.ip := rfl
@[simp] theorem State.consumeEnergy_sp (c : Nat) : (s.consumeEnergy c).sp = s.sp := rfl
@[simp] theorem State.consumeEnergy_flags (c : Nat) : (s.consumeEnergy c).flags = s.flags := rfl
@[simp] theorem State.consumeEnergy_energy (c : Nat) : (s.consumeEnergy c).energy = u16 (s.energy.toNat - c) := rfl
@[simp] theorem State.consumeEnergy_mem (c : Nat) : (s.consumeEnergy c).mem = s.mem := rfl
@[simp] theorem State.consumeEnergy_world (c : Nat) : (s.consumeEnergy c).world = s.world := rfl

@[simp] theorem stackPush_cfg (v : Word) : (stackPush s v).cfg = s.cfg := rfl
@[simp] theorem stackPush_regs (v : Word) : (stackPush s v).regs = s.regs := rfl
@[simp] theorem stackPush_ip (v : Word) : (stackPush s v).ip = s.ip := rfl
@[simp] theorem stackPush_sp (v : Word) : (stackPush s v).sp = if s.sp = 0 then u16 Config.spReset else s.sp - 1 := rfl
@[simp] theorem stackPush_flags (v : Word) : (stackPush s v).flags = s.flags := rfl
@[simp] theorem stackPush_energy (v : Word) : (stackPush s v).energy = s.energy := rfl
@[simp] theorem stackPush_world (v : Word) : (stackPush s v).world = s.world := rfl

@[simp] theorem stackDrop_cfg  : (stackDrop s).cfg = s.cfg := rfl
@[simp] theorem stackDrop_regs  : (stackDrop s).regs = s.regs := rfl
@[simp] theorem stackDrop_ip  : (stackDrop s).ip = s.ip := rfl
@[simp] theorem stackDrop_sp  : (stackDrop s).sp = if s.sp.toNat + 1 > Config.spReset then u16 Config.spReset else s.sp + 1 := rfl
@[simp] theorem stackDrop_flags  : (stackDrop s).flags = s.flags := rfl
@[simp] theorem stackDrop_energy  : (stackDrop s).energy = s.energy := rfl
@[simp] theorem stackDrop_mem  : (stackDrop s).mem = s.mem := rfl
@[simp] theorem stackDrop_world  : (stackDrop s).world = s.world := rfl

end Sys2Proof.Machine
end

