-- ==== Sys2Proof/Laws/Memory.lean ====
section
/-! SUPPORT. What the memory operations do: read after write at every address, and the canonical form is kept. The reads
hold of every list, canonical or not; only the preservation of the form needs the form. -/

namespace Sys2Proof.Machine

/-! ### Read after write -/

theorem memErase_no_entry (m : Memory) (a : Nat) : ∀ c ∈ memErase m a, c.1 ≠ a := by
  induction m with
  | nil => simp [memErase]
  | cons c m ih =>
    by_cases h : c.1 = a
    · rw [memErase, if_pos h]; exact ih
    · rw [memErase, if_neg h]; intro d hd
      rcases List.mem_cons.1 hd with rfl | hd
      · exact h
      · exact ih d hd

theorem memLookup_no_entry (m : Memory) (a : Nat) (h : ∀ c ∈ m, c.1 ≠ a) : memLookup m a = unlistedWord := by
  induction m with
  | nil => rfl
  | cons c m ih =>
    rw [memLookup, if_neg (h c (by simp))]
    exact ih fun d hd => h d (by simp [hd])

theorem memLookup_memErase (m : Memory) (a b : Nat) :
    memLookup (memErase m a) b = if a = b then unlistedWord else memLookup m b := by
  by_cases hb : a = b
  · subst hb; rw [if_pos rfl]; exact memLookup_no_entry _ _ (memErase_no_entry m a)
  · rw [if_neg hb]
    induction m with
    | nil => rfl
    | cons c m ih =>
      by_cases h : c.1 = a
      · rw [memErase, if_pos h, ih, memLookup, if_neg (by omega)]
      · rw [memErase, if_neg h, memLookup, memLookup, ih]

theorem memLookup_memInsert (m : Memory) (e : Cell) (b : Nat) (hm : ∀ c ∈ m, c.1 ≠ e.1) :
    memLookup (memInsert m e) b = if e.1 = b then e.2 else memLookup m b := by
  induction m with
  | nil => rfl
  | cons c m ih =>
    by_cases hlt : e.1 < c.1
    · rw [memInsert, if_pos hlt, memLookup]
    · have hc : c.1 ≠ e.1 := hm c (by simp)
      rw [memInsert, if_neg hlt, memLookup, ih fun d hd => hm d (by simp [hd]), memLookup]
      by_cases hb : e.1 = b
      · subst hb; rw [if_neg hc]; simp
      · rw [if_neg hb, if_neg hb]

/-- A put word is read back at its address, every other address reads as before. -/
theorem memLookup_memPut (m : Memory) (a : Nat) (v : Word) (b : Nat) :
    memLookup (memPut m a v) b = if a = b then v else memLookup m b := by
  by_cases hv : v = unlistedWord
  · rw [memPut, if_pos hv, memLookup_memErase, hv]
  · rw [memPut, if_neg hv, memLookup_memInsert _ _ _ (memErase_no_entry m a), memLookup_memErase]
    by_cases hb : a = b <;> simp [hb]

/-- `MemRead` after `MemWrite` (R52, R53): the written address, if it exists, holds the word; all others read as before. -/
theorem memRead_memWrite (s : State) (a b : Int) (v : Word) :
    (s.memWrite a v).memRead b = if a = b ∧ InMemory a then v else s.memRead b := by
  unfold State.memRead
  rw [State.memWrite_mem, memStore]
  by_cases ha : InMemory a
  · by_cases hb : InMemory b
    · rw [if_pos ha, if_pos hb, if_pos hb, memLookup_memPut]
      have h : a.toNat = b.toNat ↔ a = b := by
        obtain ⟨ha0, _⟩ := ha; obtain ⟨hb0, _⟩ := hb; omega
      by_cases hab : a = b
      · rw [if_pos (h.2 hab), if_pos ⟨hab, ha⟩]
      · rw [if_neg (fun e => hab (h.1 e)), if_neg fun e => hab e.1]
    · have hab : ¬(a = b ∧ InMemory a) := fun e => hb (e.1 ▸ e.2)
      rw [if_neg hb, if_neg hb, if_neg hab]
  · have hab : ¬(a = b ∧ InMemory a) := fun e => ha e.2
    rw [if_neg ha, if_neg hab]

/-- `RegRead` after `RegWrite` (R22). -/
theorem regRead_regWrite (s : State) (i j : Nat) (v : Word) :
    (s.regWrite i v).regRead j = if i = j ∧ i < 14 then v else s.regRead j := by
  unfold State.regRead
  rw [State.regWrite_regs, Vector.getElem?_setIfInBounds]
  by_cases hij : i = j
  · subst hij
    by_cases h : i < 14 <;> simp [h]
  · simp [hij]

/-! ### Canonical form -/

theorem Memory.below_of_forall {a : Nat} {m : Memory} (h : ∀ c ∈ m, a < c.1) : Memory.below a m = true := by
  cases m with
  | nil => rfl
  | cons c m => exact decide_eq_true (h c (by simp))

theorem Memory.wf_cons {c : Cell} {m : Memory} :
    Memory.wf (c :: m) = true ↔
      c.1 < Config.memWords ∧ c.2 ≠ unlistedWord ∧ Memory.below c.1 m = true ∧ Memory.wf m = true := by
  simp [Memory.wf, and_assoc]

theorem Memory.forall_of_below {a : Nat} {m : Memory} (hw : Memory.wf m = true) (h : Memory.below a m = true) :
    ∀ c ∈ m, a < c.1 := by
  induction m generalizing a with
  | nil => simp
  | cons c m ih =>
    have hac : a < c.1 := of_decide_eq_true h
    obtain ⟨-, -, hb, hm⟩ := Memory.wf_cons.1 hw
    intro d hd
    rcases List.mem_cons.1 hd with rfl | hd
    · exact hac
    · exact Nat.lt_trans hac (ih hm hb d hd)

theorem memErase_mem {m : Memory} {a : Nat} {c : Cell} (h : c ∈ memErase m a) : c ∈ m := by
  induction m with
  | nil => simp [memErase] at h
  | cons d m ih =>
    rw [memErase] at h
    split at h
    · exact List.mem_cons_of_mem _ (ih h)
    · rcases List.mem_cons.1 h with rfl | h
      · simp
      · exact List.mem_cons_of_mem _ (ih h)

theorem memErase_wf {m : Memory} (a : Nat) (h : Memory.wf m = true) : Memory.wf (memErase m a) = true := by
  induction m with
  | nil => rfl
  | cons c m ih =>
    obtain ⟨hc, hv, hb, hm⟩ := Memory.wf_cons.1 h
    rw [memErase]
    split
    · exact ih hm
    · exact Memory.wf_cons.2 ⟨hc, hv,
        Memory.below_of_forall fun d hd => Memory.forall_of_below hm hb d (memErase_mem hd), ih hm⟩

theorem memInsert_mem {m : Memory} {e c : Cell} (h : c ∈ memInsert m e) : c = e ∨ c ∈ m := by
  induction m with
  | nil => simpa [memInsert] using h
  | cons d m ih =>
    rw [memInsert] at h
    split at h
    · simpa using h
    · rcases List.mem_cons.1 h with rfl | h
      · simp
      · rcases ih h with rfl | h <;> simp [*]

theorem memInsert_wf {m : Memory} {e : Cell} (he : e.1 < Config.memWords) (hv : e.2 ≠ unlistedWord)
    (hne : ∀ c ∈ m, c.1 ≠ e.1) (h : Memory.wf m = true) : Memory.wf (memInsert m e) = true := by
  induction m with
  | nil => exact Memory.wf_cons.2 ⟨he, hv, rfl, rfl⟩
  | cons c m ih =>
    obtain ⟨hc, hcv, hb, hm⟩ := Memory.wf_cons.1 h
    rw [memInsert]
    split
    · exact Memory.wf_cons.2 ⟨he, hv, decide_eq_true ‹_›, h⟩
    · have hlt : c.1 < e.1 := Nat.lt_of_le_of_ne (Nat.le_of_not_lt ‹_›) (hne c (by simp))
      refine Memory.wf_cons.2 ⟨hc, hcv, Memory.below_of_forall fun d hd => ?_,
        ih (fun d hd => hne d (by simp [hd])) hm⟩
      rcases memInsert_mem hd with rfl | hd
      · exact hlt
      · exact Memory.forall_of_below hm hb d hd

theorem memPut_wf {m : Memory} {a : Nat} (v : Word) (ha : a < Config.memWords) (h : Memory.wf m = true) :
    Memory.wf (memPut m a v) = true := by
  rw [memPut]
  split
  · exact memErase_wf a h
  · exact memInsert_wf ha ‹_› (memErase_no_entry m a) (memErase_wf a h)

/-- Every write keeps the canonical form. -/
theorem memStore_wf {m : Memory} (addr : Int) (v : Word) (h : Memory.wf m = true) :
    Memory.wf (memStore m addr v) = true := by
  rw [memStore]
  split
  · obtain ⟨h0, h1⟩ := ‹InMemory addr›
    exact memPut_wf v (by omega) h
  · exact h

theorem memWrite_wf {s : State} (addr : Int) (v : Word) (h : Memory.wf s.mem = true) :
    Memory.wf (s.memWrite addr v).mem = true := memStore_wf addr v h

/-- The memory at reset has the canonical form. -/
theorem reset_mem_wf : Memory.wf State.reset.mem = true := rfl

/-! ### The loader's memory -/

theorem memOfWords_ge {a : Nat} {ws : List Word} : ∀ c ∈ memOfWords a ws, a ≤ c.1 := by
  induction ws generalizing a with
  | nil => simp [memOfWords]
  | cons w ws ih =>
    rw [memOfWords]
    split
    · intro c hc; have := ih c hc; omega
    · intro c hc
      rcases List.mem_cons.1 hc with rfl | hc
      · exact Nat.le_refl _
      · have := ih c hc; omega

theorem memOfWords_wf {a : Nat} {ws : List Word} (h : a + ws.length ≤ Config.memWords) :
    Memory.wf (memOfWords a ws) = true := by
  induction ws generalizing a with
  | nil => rfl
  | cons w ws ih =>
    rw [List.length_cons] at h
    rw [memOfWords]
    split
    · exact ih (by omega)
    · exact Memory.wf_cons.2 ⟨by show a < Config.memWords; omega, ‹_›,
        Memory.below_of_forall fun c hc => by have := memOfWords_ge c hc; show a < c.1; omega, ih (by omega)⟩

/-- A loaded address reads as its word of the image; addresses the image does not reach read as unlisted. -/
theorem memLookup_memOfWords (a : Nat) (ws : List Word) (k : Nat) :
    memLookup (memOfWords a ws) (a + k) = (ws[k]?).getD unlistedWord := by
  induction ws generalizing a k with
  | nil => simp [memOfWords, memLookup]
  | cons w ws ih =>
    rw [memOfWords]
    cases k with
    | zero =>
      split
      · rw [memLookup_no_entry _ _ fun c hc => by have := memOfWords_ge c hc; omega]
        simp [‹w = unlistedWord›]
      · simp [memLookup]
    | succ k =>
      have h : a + (k + 1) = a + 1 + k := by omega
      split
      · rw [h, ih]; simp
      · rw [memLookup, if_neg (by show ¬ a = _; omega), h, ih]; simp

end Sys2Proof.Machine
end

