-- ==== Sys2Proof/Laws/Ops.lean ====
section
/-! SUPPORT. One lemma per shared operation that says once what it can do. -/

namespace Sys2Proof.Machine

/-! ### Instruction pointer -/

theorem normIp_toNat (v : Nat) : (normIp v).toNat = (v + 2) / 3 * 3 % 3600 := by
  have h : (v + 2) / 3 * 3 % 3600 < 3600 := Nat.mod_lt _ (by decide)
  simp only [normIp, Config.memWords, BitVec.toNat_ofNat]
  omega

theorem normIp_mod_three (v : Nat) : (normIp v).toNat % 3 = 0 := by rw [normIp_toNat]; omega

theorem normIp_lt (v : Nat) : (normIp v).toNat < 3600 := by rw [normIp_toNat]; omega

/-- `norm` keeps what it has produced (R24). -/
theorem normIp_eq_self {w : Word} (h3 : w.toNat % 3 = 0) (h : w.toNat < 3600) : normIp w.toNat = w := by
  apply BitVec.eq_of_toNat_eq
  rw [normIp_toNat]
  omega

theorem instrAddr_mod_three (s : State) : s.instrAddr % 3 = 0 := normIp_mod_three _

theorem instrAddr_lt (s : State) : s.instrAddr < 3600 := normIp_lt _

/-- A state whose `ip` already is normalised fetches at `ip`. -/
theorem instrAddr_eq_ip {s : State} (h3 : s.ip.toNat % 3 = 0) (h : s.ip.toNat < 3600) : s.instrAddr = s.ip.toNat := by
  rw [State.instrAddr, normIp_eq_self h3 h]

theorem instrAddr_congr {s t : State} (h : s.ip = t.ip) : s.instrAddr = t.instrAddr := by
  rw [State.instrAddr, State.instrAddr, h]

/-! ### Reads after a change of one field -/

theorem memRead_congr {s t : State} (h : s.mem = t.mem) (a : Int) : s.memRead a = t.memRead a := by
  rw [State.memRead, State.memRead, h]

theorem regRead_congr {s t : State} (h : s.regs = t.regs) (i : Nat) : s.regRead i = t.regRead i := by
  rw [State.regRead, State.regRead, h]

/-- A read outside the memory gives 0 (R52). -/
theorem memRead_outside {s : State} {a : Int} (h : ¬InMemory a) : s.memRead a = 0 := if_neg h

/-- A read outside the register file gives 0 (R22). -/
theorem regRead_outside {s : State} {i : Nat} (h : ¬i < 14) : s.regRead i = 0 := by simp [State.regRead, h]

/-! ### Operand writes -/

/-- What a write to a resolved destination leaves unchanged. -/
theorem writeLoc_frame (s : State) (l : Loc) (v : Word) :
    (writeLoc s l v).cfg = s.cfg ∧ (writeLoc s l v).ip = s.ip ∧ (writeLoc s l v).sp = s.sp ∧
      (writeLoc s l v).flags = s.flags ∧ (writeLoc s l v).energy = s.energy ∧ (writeLoc s l v).world = s.world := by
  cases l <;> exact ⟨rfl, rfl, rfl, rfl, rfl, rfl⟩

@[simp] theorem writeLoc_cfg (s : State) (l : Loc) (v : Word) : (writeLoc s l v).cfg = s.cfg := by cases l <;> rfl
@[simp] theorem writeLoc_ip (s : State) (l : Loc) (v : Word) : (writeLoc s l v).ip = s.ip := by cases l <;> rfl
@[simp] theorem writeLoc_sp (s : State) (l : Loc) (v : Word) : (writeLoc s l v).sp = s.sp := by cases l <;> rfl
@[simp] theorem writeLoc_flags (s : State) (l : Loc) (v : Word) : (writeLoc s l v).flags = s.flags := by cases l <;> rfl
@[simp] theorem writeLoc_energy (s : State) (l : Loc) (v : Word) : (writeLoc s l v).energy = s.energy := by
  cases l <;> rfl
@[simp] theorem writeLoc_world (s : State) (l : Loc) (v : Word) : (writeLoc s l v).world = s.world := by cases l <;> rfl

/-- Every register after a write to a resolved destination (R137). -/
theorem writeLoc_regRead (s : State) (l : Loc) (v : Word) (i : Nat) :
    (writeLoc s l v).regRead i = if l = .reg i ∧ i < 14 then v else s.regRead i := by
  cases l with
  | reg j =>
    rw [writeLoc, regRead_regWrite]
    by_cases h : j = i <;> simp [h]
  | mem a => simp [writeLoc, regRead_congr (State.memWrite_regs s a v)]
  | discard => simp [writeLoc]

/-- Every memory word after a write to a resolved destination (R137). -/
theorem writeLoc_memRead (s : State) (l : Loc) (v : Word) (a : Int) :
    (writeLoc s l v).memRead a = if l = .mem a ∧ InMemory a then v else s.memRead a := by
  cases l with
  | mem b =>
    rw [writeLoc, memRead_memWrite]
    by_cases h : b = a <;> simp [h]
  | reg i => simp [writeLoc, memRead_congr (State.regWrite_mem s i v)]
  | discard => simp [writeLoc]

theorem writeLoc_wf {s : State} (l : Loc) (v : Word) (h : Memory.wf s.mem = true) :
    Memory.wf (writeLoc s l v).mem = true := by
  cases l with
  | mem a => exact memWrite_wf a v h
  | reg i => exact h
  | discard => exact h

/-! ### Stack (R165) -/

/-- Every memory word after a push: the new top holds the value, if the new `sp` is an address. -/
theorem stackPush_memRead (s : State) (v : Word) (a : Int) :
    (stackPush s v).memRead a = if ((stackPush s v).sp.toNat : Int) = a ∧ InMemory a then v else s.memRead a := by
  rw [stackPush, memRead_memWrite, memRead_congr (State.withSp_mem _ _), State.memWrite_sp, State.withSp_sp]
  by_cases h : (((if s.sp = 0 then u16 Config.spReset else s.sp - 1 : Word).toNat : Nat) : Int) = a
  · subst h; rfl
  · rw [if_neg fun e => h e.1, if_neg fun e => h e.1]

theorem stackPush_wf {s : State} (v : Word) (h : Memory.wf s.mem = true) : Memory.wf (stackPush s v).mem = true :=
  memWrite_wf _ v h

theorem stackPush_sp_le {s : State} (v : Word) (h : s.sp.toNat ≤ 3600) : (stackPush s v).sp.toNat ≤ 3600 := by
  rw [stackPush_sp]
  split
  · decide
  · bv_omega

theorem stackDrop_sp_le {s : State} (h : s.sp.toNat ≤ 3600) : (stackDrop s).sp.toNat ≤ 3600 := by
  rw [stackDrop_sp]
  simp only [Config.spReset]
  split
  · decide
  · bv_omega

/-! ### Mutation (R261) -/

/-- What a mutation leaves unchanged: everything but the memory. -/
theorem mutate_frame (s : State) (a v : Word) : mutate s a v = s.withMem (mutate s a v).mem := by
  unfold mutate
  split
  · rfl
  · simp only [State.memWrite, State.withMem_mem]

theorem applyMutation_frame (s : State) (m : Option (Word × Word)) :
    applyMutation s m = s.withMem (applyMutation s m).mem := by
  cases m with
  | none => rfl
  | some p => exact mutate_frame s p.1 p.2

theorem applyMutation_immune {s : State} (m : Option (Word × Word)) (h : s.cfg.immuneToMutation = true) :
    applyMutation s m = s := by
  cases m with
  | none => rfl
  | some p => simp [applyMutation, mutate, h]

theorem applyMutation_wf {s : State} (m : Option (Word × Word)) (h : Memory.wf s.mem = true) :
    Memory.wf (applyMutation s m).mem = true := by
  cases m with
  | none => exact h
  | some p =>
    rw [applyMutation, mutate]
    split
    · exact h
    · exact memWrite_wf _ _ h

/-! ### The ends of a step (R141, R142) -/

/-- What `finish` answers: always a next state, with only `ip` and `energy` changed. -/
theorem finish_eq (s : State) (next cost : Nat) :
    finish s next cost = .next ((s.withIp (normIp next)).withEnergy (u16 (s.energy.toNat - cost))) := rfl

/-- What `advance` answers. -/
theorem advance_eq (s : State) :
    advance s = .next ((s.withIp (normIp (s.instrAddr + 3))).withEnergy (u16 (s.energy.toNat - 1))) := rfl

theorem energy_after_cost (e : Word) (c : Nat) : (u16 (e.toNat - c)).toNat = e.toNat - c := by
  have := e.isLt
  simp only [u16, BitVec.toNat_ofNat]
  omega

/-- What a jump answers: only `ip` and `energy` change (R170). -/
theorem jumpWhen_eq (c : Bool) (o : Operand) (s : State) :
    jumpWhen c o s =
      .next ((s.withIp (normIp (if c then (readOp s o).toNat else s.instrAddr + 3))).withEnergy
        (u16 (s.energy.toNat - 1))) := rfl

/-- What the common form of R190 answers: the destination written, or nothing written. -/
theorem binaryOp_cases {f : Word → Word → Option Word} {dst src : Operand} {s t : State}
    (h : binaryOp f dst src s = .next t) :
    (∃ v, f (readOp s dst) (readOp s src) = some v ∧ advance (writeLoc s (resolve s dst) v) = .next t) ∨
      (f (readOp s dst) (readOp s src) = none ∧ advance s = .next t) := by
  rw [binaryOp] at h
  split at h
  · exact .inl ⟨_, ‹_›, h⟩
  · exact .inr ⟨‹_›, h⟩

/-! ### World port (R254 to R263) -/

/-- `position()` answers the World's pair and is recorded; nothing else of the port changes. -/
theorem askPosition_eq (w : WorldPort) :
    askPosition w = ((w.x, w.y), { w with log := .position w.x w.y :: w.log }) := rfl

theorem askElement_port (w : WorldPort) (x y : Word) :
    (askElement w x y).2.x = w.x ∧ (askElement w x y).2.y = w.y ∧
      (askElement w x y).2.log = .elementAt x y (askElement w x y).1 :: w.log := ⟨rfl, rfl, rfl⟩

/-- `attempt_move(d)`: recorded; granted, the position is on the grid; refused, the position is the same. -/
theorem askMove_port (cfg : Params) (w : WorldPort) (d : BitVec 2) :
    (askMove cfg w d).2.log = .attemptMove d (askMove cfg w d).1 :: w.log ∧
      ((askMove cfg w d).1 = true → onGrid cfg (askMove cfg w d).2.x (askMove cfg w d).2.y = true) ∧
      ((askMove cfg w d).1 = false → (askMove cfg w d).2.x = w.x ∧ (askMove cfg w d).2.y = w.y) := by
  unfold askMove
  split
  · rename_i h
    have hf := congrArg Prod.fst h
    simp only [moveAnswer, Option.filter_eq_some_iff] at hf
    simpa [WorldPort.record] using hf.2
  · simp [WorldPort.record]

theorem askConsume_port (w : WorldPort) (e : Word) :
    (askConsume w e).2.x = w.x ∧ (askConsume w e).2.y = w.y ∧
      (askConsume w e).2.log = .consume e (askConsume w e).1 :: w.log := ⟨rfl, rfl, rfl⟩

theorem askCollect_port (w : WorldPort) (amt : Word) :
    (askCollect w amt).2.x = w.x ∧ (askCollect w amt).2.y = w.y ∧
      (askCollect w amt).2.log = .collect amt (askCollect w amt).1 :: w.log := ⟨rfl, rfl, rfl⟩

theorem askRandom_port (w : WorldPort) (b : Word) :
    (askRandom w b).2.x = w.x ∧ (askRandom w b).2.y = w.y ∧
      (askRandom w b).2.log = .nextRandom b (askRandom w b).1 :: w.log := ⟨rfl, rfl, rfl⟩

/-- Every bounded draw is below its bound, and 0 for the bound 0 (R256). -/
theorem boundedDraw_bound (b v : Word) :
    (b = 0 → boundedDraw b v = 0) ∧ (b ≠ 0 → (boundedDraw b v).toNat < b.toNat) := by
  refine ⟨fun h => if_pos h, fun h => ?_⟩
  rw [boundedDraw, if_neg h, BitVec.toNat_umod]
  exact Nat.mod_lt _ (by rw [Nat.pos_iff_ne_zero]; exact fun e => h (BitVec.eq_of_toNat_eq (by simpa using e)))

/-- When the loader refuses (R302; log 3, log 22). -/
theorem load_refuses {cfg : Params} {world : WorldPort} {image : List Word}
    (h : image.length ≠ 3600 ∨ cfg.wf = false ∨ onGrid cfg world.x world.y = false) : load cfg world image = none := by
  unfold load imageWf
  rcases h with h | h | h
  · simp [h]
  · rw [h, Bool.false_and, Bool.and_false]; rfl
  · rw [h, Bool.and_false, Bool.and_false]; rfl

end Sys2Proof.Machine
end

