-- ==== Sys2Proof/Laws/PerInstr.lean ====
section
/-! SUPPORT. Per instruction: the canonical words carry the opcode byte of the map (R92) in word 0, with bits 9:8 clear. -/

namespace Sys2Proof.Laws

/-- Word 0 of the canonical words holds the instruction's opcode byte, and its reserved bits are 0 (R81, R84, R91). -/
def OpcodeByte.Statement (i : Instr) : Prop :=
  ∀ (map : OpcodeMap) (ip : Word),
    field (encode map i ip).w0 opcodePos 8 = opcodeNumber map (mnemonicOf i) ∧ field (encode map i ip).w0 8 2 = 0#2

/-- The fields of `encode`'s word 0 that do not depend on the operands. -/
theorem opcode_byte_of_encode (i : Instr) : OpcodeByte.Statement i := by
  intro map ip
  have h := field_word0 (modeOf (slotsOf i).1) (modeOf (slotsOf i).2) (subOf (slotsOf i).1) (subOf (slotsOf i).2)
    (opcodeNumber map (mnemonicOf i))
  exact ⟨h.2.2.2.2.1, h.2.2.2.2.2⟩

theorem OpcodeByte.nop : OpcodeByte.Statement .nop := opcode_byte_of_encode _
theorem OpcodeByte.mov (dst src : Operand) : OpcodeByte.Statement (.mov dst src) := opcode_byte_of_encode _
theorem OpcodeByte.push (src : Operand) : OpcodeByte.Statement (.push src) := opcode_byte_of_encode _
theorem OpcodeByte.pop (dst : Operand) : OpcodeByte.Statement (.pop dst) := opcode_byte_of_encode _
theorem OpcodeByte.call (addr : Operand) : OpcodeByte.Statement (.call addr) := opcode_byte_of_encode _
theorem OpcodeByte.ret : OpcodeByte.Statement .ret := opcode_byte_of_encode _
theorem OpcodeByte.jmp (addr : Operand) : OpcodeByte.Statement (.jmp addr) := opcode_byte_of_encode _
theorem OpcodeByte.jl (addr : Operand) : OpcodeByte.Statement (.jl addr) := opcode_byte_of_encode _
theorem OpcodeByte.jle (addr : Operand) : OpcodeByte.Statement (.jle addr) := opcode_byte_of_encode _
theorem OpcodeByte.jg (addr : Operand) : OpcodeByte.Statement (.jg addr) := opcode_byte_of_encode _
theorem OpcodeByte.jge (addr : Operand) : OpcodeByte.Statement (.jge addr) := opcode_byte_of_encode _
theorem OpcodeByte.je (addr : Operand) : OpcodeByte.Statement (.je addr) := opcode_byte_of_encode _
theorem OpcodeByte.jne (addr : Operand) : OpcodeByte.Statement (.jne addr) := opcode_byte_of_encode _
theorem OpcodeByte.js (addr : Operand) : OpcodeByte.Statement (.js addr) := opcode_byte_of_encode _
theorem OpcodeByte.jns (addr : Operand) : OpcodeByte.Statement (.jns addr) := opcode_byte_of_encode _
theorem OpcodeByte.add (dst src : Operand) : OpcodeByte.Statement (.add dst src) := opcode_byte_of_encode _
theorem OpcodeByte.sub (dst src : Operand) : OpcodeByte.Statement (.sub dst src) := opcode_byte_of_encode _
theorem OpcodeByte.mult (dst src : Operand) : OpcodeByte.Statement (.mult dst src) := opcode_byte_of_encode _
theorem OpcodeByte.div (dst src : Operand) : OpcodeByte.Statement (.div dst src) := opcode_byte_of_encode _
theorem OpcodeByte.mod (dst src : Operand) : OpcodeByte.Statement (.mod dst src) := opcode_byte_of_encode _
theorem OpcodeByte.and (dst src : Operand) : OpcodeByte.Statement (.and dst src) := opcode_byte_of_encode _
theorem OpcodeByte.or (dst src : Operand) : OpcodeByte.Statement (.or dst src) := opcode_byte_of_encode _
theorem OpcodeByte.xor (dst src : Operand) : OpcodeByte.Statement (.xor dst src) := opcode_byte_of_encode _
theorem OpcodeByte.cmp (op1 op2 : Operand) : OpcodeByte.Statement (.cmp op1 op2) := opcode_byte_of_encode _
theorem OpcodeByte.test (op1 op2 : Operand) : OpcodeByte.Statement (.test op1 op2) := opcode_byte_of_encode _
theorem OpcodeByte.getxy (dst dst2 : Operand) : OpcodeByte.Statement (.getxy dst dst2) := opcode_byte_of_encode _
theorem OpcodeByte.energy (dst : Operand) : OpcodeByte.Statement (.energy dst) := opcode_byte_of_encode _
theorem OpcodeByte.travel (dir : Operand) : OpcodeByte.Statement (.travel dir) := opcode_byte_of_encode _
theorem OpcodeByte.shl (dst src : Operand) : OpcodeByte.Statement (.shl dst src) := opcode_byte_of_encode _
theorem OpcodeByte.shr (dst src : Operand) : OpcodeByte.Statement (.shr dst src) := opcode_byte_of_encode _
theorem OpcodeByte.sense (dst : Operand) : OpcodeByte.Statement (.sense dst) := opcode_byte_of_encode _
theorem OpcodeByte.eat : OpcodeByte.Statement .eat := opcode_byte_of_encode _
theorem OpcodeByte.rand (dst max : Operand) : OpcodeByte.Statement (.rand dst max) := opcode_byte_of_encode _
theorem OpcodeByte.release (amt : Operand) : OpcodeByte.Statement (.release amt) := opcode_byte_of_encode _
theorem OpcodeByte.charge : OpcodeByte.Statement .charge := opcode_byte_of_encode _
theorem OpcodeByte.poke : OpcodeByte.Statement .poke := opcode_byte_of_encode _
theorem OpcodeByte.peek : OpcodeByte.Statement .peek := opcode_byte_of_encode _
theorem OpcodeByte.cksum : OpcodeByte.Statement .cksum := opcode_byte_of_encode _

end Sys2Proof.Laws
end

