-- ==== Sys2Proof/Laws/Step.lean ====
section
/-! SUPPORT. What one step can do, said once: the three ways of a tick, and the ways of the meanings that branch. -/

namespace Sys2Proof.Machine

/-- The host's machine takes this step. -/
theorem core_step : Sys2Proof.core.step = step := rfl

/-- A tick finds the core frozen, or executes the decoded instruction, or executes NOP for an undefined opcode. -/
theorem step_cases {s t : State} (h : step s = .next t) :
    (s.energy = 0 ∧ t = s) ∨ (s.energy ≠ 0 ∧ ∃ i, fetchInstr s = .ok i ∧ exec i s = .next t) ∨
      (s.energy ≠ 0 ∧ ∃ r, fetchInstr s = .error r ∧ execNop s = .next t) := by
  unfold step at h
  by_cases he : s.energy = 0
  · rw [if_pos he] at h; cases h; exact .inl ⟨he, rfl⟩
  · rw [if_neg he] at h
    cases hf : fetchInstr s with
    | ok i => rw [hf] at h; exact .inr (.inl ⟨he, i, rfl, h⟩)
    | error r => rw [hf] at h; exact .inr (.inr ⟨he, r, rfl, h⟩)

/-- The ways of TRAVEL (R223). -/
theorem execTravel_cases {a : Operand} {s t : State} (h : execTravel a s = .next t) :
    (s.energy.toNat < 10 ∧ advance (s.setSuccess false) = .next t) ∨
      (10 ≤ s.energy.toNat ∧ ∃ m, m = askMove s.cfg s.world ((readOp s a).setWidth 2) ∧
        finish ((s.withWorld m.2).setSuccess m.1) (s.instrAddr + 3) (if m.1 then 10 else 1) = .next t) := by
  unfold execTravel at h
  simp only at h
  split at h
  · exact .inl ⟨‹_›, h⟩
  · exact .inr ⟨Nat.le_of_not_lt ‹_›, _, rfl, h⟩

/-- The ways of RELEASE (R226). -/
theorem execRelease_cases {a : Operand} {s t : State} (h : execRelease a s = .next t) :
    (s.energy.toNat < (readOp s a).toNat ∧ advance (s.setSuccess false) = .next t) ∨
      ((readOp s a).toNat ≤ s.energy.toNat ∧ ∃ c, c = askCollect s.world (readOp s a) ∧
        ((c.1 = true ∧
            advance (((s.withWorld c.2).withEnergy (s.energy - readOp s a)).setSuccess true) = .next t) ∨
          (c.1 = false ∧ advance ((s.withWorld c.2).setSuccess false) = .next t))) := by
  unfold execRelease at h
  simp only at h
  split at h
  · refine .inr ⟨‹_›, _, rfl, ?_⟩
    split at h
    · exact .inl ⟨‹_›, h⟩
    · exact .inr ⟨Bool.eq_false_iff.2 ‹_›, h⟩
  · exact .inl ⟨Nat.lt_of_not_le ‹_›, h⟩

/-- The ways of EAT (R225). -/
theorem execEat_cases {s t : State} (h : execEat s = .next t) :
    ∃ e, e = askElement (askPosition s.world).2 s.world.x s.world.y ∧
      ((EatFails s e.1 ∧ advance ((s.withWorld e.2).setSuccess false) = .next t) ∨
        (¬EatFails s e.1 ∧ ∃ c m, c = askConsume e.2 e.1 ∧ m = applyMutation (s.withWorld c.2) c.1 ∧
          advance ((m.withEnergy (u16 (s.energy.toNat + 2000))).setSuccess true) = .next t)) := by
  unfold execEat at h
  simp only at h
  refine ⟨_, rfl, ?_⟩
  split at h
  · exact .inl ⟨‹_›, h⟩
  · exact .inr ⟨‹_›, _, _, rfl, rfl, h⟩

end Sys2Proof.Machine
end

