-- ==== Sys2Proof/Tests/Slice0.lean ====
section
/-! SUPPORT. Own tests. Expected results are the vectors of spec/95_test_vectors.md (V, C, A, T, W, U, G and JL-L ... are
its ids) and the worked encodings of R98, unless a comment names another rule. -/

namespace Sys2Proof.Tests

open Sys2Proof.Machine

/-! ### Well-formedness: each check refuses an ill-formed term -/

theorem test_wf_offset_too_low : Operand.wf (.indexed 0 (-4097)) = false := by decide
theorem test_wf_offset_too_high : Operand.wf (.indexed 0 4096) = false := by decide
theorem test_wf_offset_ends : (Operand.wf (.indexed 0 (-4096)) && Operand.wf (.indexed 15 4095)) = true := by decide
theorem test_wf_decoded_second_operand : Decoded.wf ⟨1, .register 0, .indexed 0 4096⟩ = false := by decide
theorem test_wf_instr_operand : Instr.wf (.mov (.indexed 0 4096) (.register 0)) = false := by decide
theorem test_wf_instr_second_operand : Instr.wf (.rand (.register 0) (.indexed 0 (-4097))) = false := by decide
theorem test_wf_instr_single_operand : Instr.wf (.jmp (.indexed 3 5000)) = false := by decide
theorem test_wf_params_no_grid : Params.wf { Config.defaultParams with gridWidth := 0 } = false ∧
    Params.wf { Config.defaultParams with gridHeight := 0 } = false := by decide
theorem test_wf_params_no_energy : Params.wf { Config.defaultParams with initEnergy := 0 } = false := by decide
theorem test_wf_image_short : imageWf [1, 2, 3] = false := by decide

/-! ### Decoding: every constructor, from words written out of the encoding tables -/

theorem test_decode_nop : decode Config.opcodeMap ⟨0x0000, 0x0000, 0x0000⟩ 0 = .ok (.nop) := by decide
theorem test_decode_mov : decode Config.opcodeMap ⟨0x6001, 0x0000, 0x0005⟩ 0 = .ok (.mov (.register 0) (.immediate 5)) := by decide
theorem test_decode_push : decode Config.opcodeMap ⟨0x8002, 0xFFFF, 0x0000⟩ 15 = .ok (.push (.immediate 65535)) := by decide
theorem test_decode_pop : decode Config.opcodeMap ⟨0xC003, 0x2000, 0x0000⟩ 0 = .ok (.pop (.indexed 2 0)) := by decide
theorem test_decode_call : decode Config.opcodeMap ⟨0x8004, 0x0009, 0x0000⟩ 3 = .ok (.call (.immediate 12)) := by decide
theorem test_decode_ret : decode Config.opcodeMap ⟨0x0005, 0x0000, 0x0000⟩ 0 = .ok (.ret) := by decide
theorem test_decode_jmp : decode Config.opcodeMap ⟨0x8006, 0xFFF7, 0x0000⟩ 15 = .ok (.jmp (.immediate 6)) := by decide
theorem test_decode_jl : decode Config.opcodeMap ⟨0x8007, 0xFFF4, 0x0000⟩ 15 = .ok (.jl (.immediate 3)) := by decide
theorem test_decode_jle : decode Config.opcodeMap ⟨0x8008, 0x0015, 0x0000⟩ 9 = .ok (.jle (.immediate 30)) := by decide
theorem test_decode_jg : decode Config.opcodeMap ⟨0x4009, 0x0002, 0x0000⟩ 9 = .ok (.jg (.register 2)) := by decide
theorem test_decode_jge : decode Config.opcodeMap ⟨0x800A, 0x0015, 0x0000⟩ 9 = .ok (.jge (.immediate 30)) := by decide
theorem test_decode_je : decode Config.opcodeMap ⟨0x800B, 0x0012, 0x0000⟩ 9 = .ok (.je (.immediate 27)) := by decide
theorem test_decode_jne : decode Config.opcodeMap ⟨0x800C, 0x0015, 0x0000⟩ 9 = .ok (.jne (.immediate 30)) := by decide
theorem test_decode_js : decode Config.opcodeMap ⟨0x800D, 0x0015, 0x0000⟩ 9 = .ok (.js (.immediate 30)) := by decide
theorem test_decode_jns : decode Config.opcodeMap ⟨0x800E, 0x000F, 0x0000⟩ 3 = .ok (.jns (.immediate 18)) := by decide
theorem test_decode_add : decode Config.opcodeMap ⟨0xD80F, 0x3FFE, 0x0001⟩ 0 = .ok (.add (.indexed 3 (-2)) (.register 1)) := by decide
theorem test_decode_sub : decode Config.opcodeMap ⟨0xF410, 0x5001, 0x6FFF⟩ 0 = .ok (.sub (.indexed 5 1) (.indexed 6 (-1))) := by decide
theorem test_decode_mult : decode Config.opcodeMap ⟨0x5011, 0x0000, 0x0001⟩ 0 = .ok (.mult (.register 0) (.register 1)) := by decide
theorem test_decode_div : decode Config.opcodeMap ⟨0x2012, 0x0028, 0x0000⟩ 0 = .ok (.div (.direct 40) (.immediate 0)) := by decide
theorem test_decode_mod : decode Config.opcodeMap ⟨0x2013, 0x0028, 0x0004⟩ 0 = .ok (.mod (.direct 40) (.immediate 4)) := by decide
theorem test_decode_and : decode Config.opcodeMap ⟨0x6014, 0x0000, 0x0FF0⟩ 0 = .ok (.and (.register 0) (.immediate 4080)) := by decide
theorem test_decode_or : decode Config.opcodeMap ⟨0x6015, 0x0000, 0x0FF0⟩ 0 = .ok (.or (.register 0) (.immediate 4080)) := by decide
theorem test_decode_xor : decode Config.opcodeMap ⟨0x6016, 0x0000, 0x0FF0⟩ 0 = .ok (.xor (.register 0) (.immediate 4080)) := by decide
theorem test_decode_cmp : decode Config.opcodeMap ⟨0xA017, 0x0006, 0x0006⟩ 15 = .ok (.cmp (.immediate 6) (.immediate 6)) := by decide
theorem test_decode_test : decode Config.opcodeMap ⟨0x6018, 0x0004, 0x0002⟩ 0 = .ok (.test (.register 4) (.immediate 2)) := by decide
theorem test_decode_getxy : decode Config.opcodeMap ⟨0x7019, 0x0000, 0x0001⟩ 0 = .ok (.getxy (.register 0) (.indexed 0 1)) := by decide
theorem test_decode_energy : decode Config.opcodeMap ⟨0x401A, 0x0002, 0x0000⟩ 0 = .ok (.energy (.register 2)) := by decide
theorem test_decode_travel : decode Config.opcodeMap ⟨0x801B, 0x0006, 0x0000⟩ 0 = .ok (.travel (.immediate 6)) := by decide
theorem test_decode_shl : decode Config.opcodeMap ⟨0x601C, 0x0002, 0x0001⟩ 0 = .ok (.shl (.register 2) (.immediate 1)) := by decide
theorem test_decode_shr : decode Config.opcodeMap ⟨0x601D, 0x0000, 0x000F⟩ 0 = .ok (.shr (.register 0) (.immediate 15)) := by decide
theorem test_decode_sense : decode Config.opcodeMap ⟨0x401E, 0x0001, 0x0000⟩ 0 = .ok (.sense (.register 1)) := by decide
theorem test_decode_eat : decode Config.opcodeMap ⟨0x001F, 0x0000, 0x0000⟩ 0 = .ok (.eat) := by decide
theorem test_decode_rand : decode Config.opcodeMap ⟨0x6020, 0x0000, 0x0004⟩ 0 = .ok (.rand (.register 0) (.immediate 4)) := by decide
theorem test_decode_release : decode Config.opcodeMap ⟨0x8021, 0x01F4, 0x0000⟩ 0 = .ok (.release (.immediate 500)) := by decide
theorem test_decode_charge : decode Config.opcodeMap ⟨0x0022, 0x0000, 0x0000⟩ 0 = .ok (.charge) := by decide
theorem test_decode_poke : decode Config.opcodeMap ⟨0x6023, 0x0001, 0x0002⟩ 0 = .ok (.poke) := by decide
theorem test_decode_peek : decode Config.opcodeMap ⟨0x5024, 0x0001, 0x0002⟩ 3 = .ok (.peek) := by decide
theorem test_decode_cksum : decode Config.opcodeMap ⟨0x0025, 0x0000, 0x0000⟩ 3597 = .ok (.cksum) := by decide

-- U5: an opcode byte above 37 is rejected by name.
theorem test_decode_undefined : decode Config.opcodeMap ⟨0x00FF, 5, 6⟩ 30 = .error (.undefinedOpcode 255) := by decide
-- V9 and S1: `sub = 1, field = 0` is the offset -4096, and r15 stays r15.
theorem test_decode_offset_ends : decode Config.opcodeMap ⟨0x7401, 0x0000, 0x1000⟩ 0 = .ok (.mov (.register 0) (.indexed 1 (-4096))) ∧
    decode Config.opcodeMap ⟨0x7001, 0x0000, 0xFFFF⟩ 0 = .ok (.mov (.register 0) (.indexed 15 4095)) := by decide
-- U8, U9: bits 9:8 and the subtract flags of other modes are ignored.
theorem test_decode_ignored_bits : decode Config.opcodeMap ⟨0x6301, 0, 5⟩ 0 = decode Config.opcodeMap ⟨0x6001, 0, 5⟩ 0 ∧
    decode Config.opcodeMap ⟨0x6C01, 0, 5⟩ 0 = decode Config.opcodeMap ⟨0x6001, 0, 5⟩ 0 := by decide
-- S1: the words of R98 from the instruction.
theorem test_encode_indexed : encode Config.opcodeMap (.add (.indexed 3 (-2)) (.register 1)) 0 = ⟨0xD80F, 0x3FFE, 1⟩ ∧
    encode Config.opcodeMap (.sub (.indexed 5 1) (.indexed 6 (-1))) 0 = ⟨0xF410, 0x5001, 0x6FFF⟩ := by decide
-- S2: the relative target at four addresses.
theorem test_encode_relative : (encode Config.opcodeMap (.jmp (.immediate 6)) 0).w1 = 0x0006 ∧ (encode Config.opcodeMap (.jmp (.immediate 6)) 15).w1 = 0xFFF7 ∧
    (encode Config.opcodeMap (.jmp (.immediate 6)) 3597).w1 = 0xF1F9 ∧ (encode Config.opcodeMap (.call (.immediate 0)) 3597).w1 = 0xF1F3 := by decide
-- S1: the codec is defined for every opcode byte.
theorem test_encode_undefined : encodeWords Config.opcodeMap ⟨200, .immediate 6, .register 2⟩ 15 = ⟨0x90C8, 6, 2⟩ := by decide
-- R92: the map has 38 rows, and the last is CKSUM.
theorem test_opcode_table : Config.opcodeMap.length = 38 ∧ (opcodeRow Config.opcodeMap 37).map OpcodeRow.text = some "CKSUM" ∧
    opcodeRow Config.opcodeMap 38 = none := by decide
-- R92, its numbers: position by position.
theorem test_opcode_numbers : [Mnemonic.nop, .mov, .push, .pop, .call, .ret, .jmp, .jl, .jns, .add, .xor, .cmp, .test, .getxy, .travel, .shl,
    .sense, .eat, .rand, .release, .charge, .cksum].map (fun m => (opcodeNumber Config.opcodeMap m).toNat) =
    [0, 1, 2, 3, 4, 5, 6, 7, 14, 15, 22, 23, 24, 25, 27, 28, 30, 31, 32, 33, 34, 37] := by decide
/-- The map of R92 with PUSH and JMP exchanged. -/
def swapped : OpcodeMap := (Config.opcodeMap.set 2 .jmp).set 6 .push
-- R6: under another map the numbers mean its mnemonics, and the relative rule follows JMP (93_implementation_defined.md, GK1).
theorem test_other_opcode_map : OpcodeMap.wf swapped = true ∧ decode swapped ⟨0x8002, 0xFFF7, 0⟩ 15 = .ok (.jmp (.immediate 6)) ∧
    decode swapped ⟨0x8006, 0xFFF7, 0⟩ 15 = .ok (.push (.immediate 0xFFF7)) ∧
    encode swapped (.jmp (.immediate 6)) 15 = ⟨0x8002, 0xFFF7, 0⟩ := by decide
theorem test_wf_opcode_map : OpcodeMap.wf (Config.opcodeMap.set 2 .nop) = false ∧ OpcodeMap.wf Config.opcodeMap.tail = false := by decide
theorem test_decode_table_word : decodeTableWord 48 0x000500006001 = some (.mov (.register 0) (.immediate 5)) ∧
    decodeTableWord 16 0x001F = some .eat ∧ decodeTableWord 16 0x00FF = none := by decide

/-! ### One step -/

/-- The default start state of 95_test_vectors.md section 2, placed at (1, 2). -/
def start : State := { State.reset with energy := 100, world := { x := 1, y := 2, script := [], log := [] } }

/-- The state after one step of `s` on three words at its `ip`. -/
def after (s : State) (w0 w1 w2 : Word) : State :=
  match step (placeWords s ⟨w0, w1, w2⟩) with
  | .next t => t
  | _ => s

/-- `s` with a register set. -/
def setR (s : State) (i : Nat) (v : Word) : State := s.regWrite i v

/-- `s` with the World's coming answers, at (1, 2). -/
def scripted (s : State) (answers : List Answer) : State :=
  s.withWorld { x := 1, y := 2, script := answers, log := [] }

/-- `start` on a grid of 3 columns and 4 rows. -/
def small : State := { start with cfg := { start.cfg with gridWidth := 3, gridHeight := 4 } }

/-- The flags S, L, E, G. -/
def flagsOf (success less equal greater : Bool) : Flags := ⟨success, less, equal, greater⟩

-- V23.
theorem test_nop_ignores_operands : (after start 0xFC00 0x1234 0xFFFF).ip = 3 ∧ (after start 0xFC00 0x1234 0xFFFF).energy = 99 := by decide
-- G2.
theorem test_frozen : (after (scripted { start with energy := 0 } []) 0x6001 0 1) =
    placeWords (scripted { start with energy := 0 } []) ⟨0x6001, 0, 1⟩ := by decide
-- V8.
theorem test_mov_indexed : ((after ((setR start 4 50).memWrite 51 4369) 0xF801 0x4FFF 0x4001).memRead 49) = 4369 := by decide
-- V10 and V11: no wrap above, none below.
theorem test_mov_out_of_range_reads_zero : (after ((setR (setR start 1 65535) 0 3).memWrite 4 43690) 0x7001 0 0x1005).regRead 0 = 0 ∧
    (after (setR start 0 3) 0x7401 0 0x1FFF).regRead 0 = 0 := by decide
-- V10, its remark on EA_WRAP16.
theorem test_mov_wrapping_address : (after ((setR (setR { start with cfg := { start.cfg with eaWrap16 := true } } 1 65535) 0 3).memWrite 4 43690)
    0x7001 0 0x1005).regRead 0 = 43690 := by decide
-- V16 and V17.
theorem test_push_wraps : (after { setR start 1 7 with sp := 1, ip := 30 } 0x4002 1 0).memRead 0 = 7 ∧
    (after { setR start 1 7 with sp := 0 } 0x4002 1 0).sp = 3600 := by decide
-- V18: pops 0, sp stays.
theorem test_pop_empty : (after (setR start 0 99) 0x4003 0 0).regRead 0 = 0 ∧ (after (setR start 0 99) 0x4003 0 0).sp = 3600 := by decide
-- V20.
theorem test_pop : (after ({ setR start 2 100 with sp := 3599 }.memWrite 3599 5) 0xC003 0x2000 0).memRead 100 = 5 := by decide
-- C9: pushes 3600 unreduced.
theorem test_call_at_the_top : (after { start with ip := 3597 } 0x8004 0xF1F3 0).memRead 3599 = 3600 ∧
    (after { start with ip := 3597 } 0x8004 0xF1F3 0).ip = 0 := by decide
-- C11.
theorem test_call_reads_before_push : (after (start.memWrite 3599 300) 0x0004 0x0E0F 0).ip = 300 ∧
    (after (start.memWrite 3599 300) 0x0004 0x0E0F 0).memRead 3599 = 3 := by decide
-- C13 and C16.
theorem test_ret_normalises : (after ({ start with sp := 3599 }.memWrite 3599 7) 5 0 0).ip = 9 ∧
    (after ({ start with sp := 3599 }.memWrite 3599 65535) 5 0 0).ip = 735 := by decide
-- C14.
theorem test_ret_empty : (after { start with ip := 30 } 5 0 0).ip = 0 ∧ (after { start with ip := 30 } 5 0 0).sp = 3600 := by decide
-- C1 and C6.
theorem test_jmp : (after { start with ip := 15 } 0x8006 0xFFF7 0).ip = 6 ∧ (after { start with ip := 3597 } 0x8006 3 0).ip = 0 := by decide
-- C4 and C5.
theorem test_jmp_register_and_memory : (after (setR start 1 65535) 0x4006 1 0).ip = 735 ∧ (after (start.memWrite 100 300) 0x0006 100 0).ip = 300 := by decide
-- JL-L, -E, -G.
theorem test_jl : (after { start with ip := 9, flags := flagsOf false true false false } 0x8007 0x0015 0).ip = 30 ∧
    (after { start with ip := 9, flags := flagsOf false false true false } 0x8007 0x0015 0).ip = 12 ∧
    (after { start with ip := 9, flags := flagsOf false false false true } 0x8007 0x0015 0).ip = 12 := by decide
-- JLE-L, -E, -G.
theorem test_jle : (after { start with ip := 9, flags := flagsOf false true false false } 0x8008 0x0015 0).ip = 30 ∧
    (after { start with ip := 9, flags := flagsOf false false true false } 0x8008 0x0015 0).ip = 30 ∧
    (after { start with ip := 9, flags := flagsOf false false false true } 0x8008 0x0015 0).ip = 12 := by decide
-- JG-L, -E, -G.
theorem test_jg : (after { start with ip := 9, flags := flagsOf false true false false } 0x8009 0x0015 0).ip = 12 ∧
    (after { start with ip := 9, flags := flagsOf false false true false } 0x8009 0x0015 0).ip = 12 ∧
    (after { start with ip := 9, flags := flagsOf false false false true } 0x8009 0x0015 0).ip = 30 := by decide
-- JGE-L, -E, -G.
theorem test_jge : (after { start with ip := 9, flags := flagsOf false true false false } 0x800A 0x0015 0).ip = 12 ∧
    (after { start with ip := 9, flags := flagsOf false false true false } 0x800A 0x0015 0).ip = 30 ∧
    (after { start with ip := 9, flags := flagsOf false false false true } 0x800A 0x0015 0).ip = 30 := by decide
-- JE-L, -E, -G.
theorem test_je : (after { start with ip := 9, flags := flagsOf false true false false } 0x800B 0x0015 0).ip = 12 ∧
    (after { start with ip := 9, flags := flagsOf false false true false } 0x800B 0x0015 0).ip = 30 ∧
    (after { start with ip := 9, flags := flagsOf false false false true } 0x800B 0x0015 0).ip = 12 := by decide
-- JNE-L, -E, -G.
theorem test_jne : (after { start with ip := 9, flags := flagsOf false true false false } 0x800C 0x0015 0).ip = 30 ∧
    (after { start with ip := 9, flags := flagsOf false false true false } 0x800C 0x0015 0).ip = 12 ∧
    (after { start with ip := 9, flags := flagsOf false false false true } 0x800C 0x0015 0).ip = 30 := by decide
-- JS-S0, JS-S1.
theorem test_js : (after { start with ip := 9, flags := flagsOf false true true true } 0x800D 0x0015 0).ip = 12 ∧ (after { start with ip := 9, flags := flagsOf true false false false } 0x800D 0x0015 0).ip = 30 := by decide
-- JNS-S0, JNS-S1.
theorem test_jns : (after { start with ip := 9, flags := flagsOf false true true true } 0x800E 0x0015 0).ip = 30 ∧ (after { start with ip := 9, flags := flagsOf true false false false } 0x800E 0x0015 0).ip = 12 := by decide
-- C43.
theorem test_jg_rounds_up : (after { setR start 2 100 with flags := flagsOf false false false true } 0x4009 2 0).ip = 102 := by decide
-- A1.
theorem test_add_wraps : (after (setR start 0 65535) 0x600F 0 1).regRead 0 = 0 := by decide
-- A3.
theorem test_add_memory : (after (((setR start 1 12).memWrite 500 1000).memWrite 10 24) 0x340F 0x01F4 0x1FFE).memRead 500 = 1024 := by decide
-- A6 and A7.
theorem test_sub_borrow : (after start 0x6010 0 1).regRead 0 = 65535 ∧ (after (setR start 5 1234) 0x5010 5 5).regRead 5 = 0 := by decide
-- A8 and A9.
theorem test_mult_low_half : (after (setR (setR start 0 300) 1 300) 0x5011 0 1).regRead 0 = 24464 ∧
    (after (setR start 0 65535) 0x5011 0 0).regRead 0 = 1 := by decide
-- A10 and A12: floor, unsigned.
theorem test_div : (after (setR start 0 100) 0x6012 0 7).regRead 0 = 14 ∧ (after (setR start 0 65534) 0x6012 0 2).regRead 0 = 32767 := by decide
-- A11: skipped at cost 1.
theorem test_div_by_zero : (after (setR start 0 100) 0x6012 0 0).regRead 0 = 100 ∧ (after (setR start 0 100) 0x6012 0 0).energy = 99 := by decide
-- A14 and A16.
theorem test_mod : (after (setR start 0 100) 0x6013 0 7).regRead 0 = 2 ∧ (after (setR start 0 65535) 0x6013 0 0x8000).regRead 0 = 32767 := by decide
-- A15: skipped.
theorem test_mod_by_zero : (after (setR start 0 100) 0x6013 0 0).regRead 0 = 100 ∧ (after (setR start 0 100) 0x6013 0 0).ip = 3 := by decide
-- A17.
theorem test_and : (after (setR start 0 61680) 0x6014 0 0x0FF0).regRead 0 = 240 := by decide
-- A18.
theorem test_or : (after (setR start 0 61680) 0x6015 0 0x0FF0).regRead 0 = 65520 := by decide
-- A19 and A20.
theorem test_xor : (after (setR start 0 61680) 0x6016 0 0x0FF0).regRead 0 = 65280 ∧ (after (setR start 0 61680) 0x5016 0 0).regRead 0 = 0 := by decide
-- A22 and A23: counts 15 and 16.
theorem test_shl : (after (setR start 0 3) 0x601C 0 15).regRead 0 = 32768 ∧ (after (setR start 0 65535) 0x601C 0 16).regRead 0 = 0 := by decide
-- R199: counts 33 under mod32 and 16 under mod16.
theorem test_shl_modes : shlResult .mod32 3 33 = 6 ∧ shlResult .mod32 3 16 = 0 ∧ shlResult .mod16 65535 16 = 65535 := by decide
-- A26 and A28: logical, count 32.
theorem test_shr : (after (setR start 0 32768) 0x601D 0 15).regRead 0 = 1 ∧ (after (setR start 0 65535) 0x601D 0 32).regRead 0 = 0 := by decide
-- A28, its remark.
theorem test_shr_modes : shrResult .mod32 65535 32 = 65535 ∧ shrResult .mod16 65535 32 = 65535 := by decide
-- T1.
theorem test_cmp_less_keeps_success : (after { setR start 0 3 with flags := flagsOf true false false true } 0x6017 0 5).flags = flagsOf true true false false := by decide
-- T4 and T6.
theorem test_cmp_unsigned : (after (setR start 0 65535) 0x6017 0 1).flags = flagsOf false false false true ∧
    (after start 0x4017 14 0x0E10).flags = flagsOf false false true false := by decide
-- T7.
theorem test_test_sets : (after { setR start 0 3855 with flags := flagsOf false true false true } 0x6018 0 240).flags = flagsOf true true false true := by decide
-- T8.
theorem test_test_clears : (after { setR start 0 3855 with flags := flagsOf true false true false } 0x6018 0 256).flags = flagsOf false false true false := by decide
-- W4.
theorem test_getxy_old_base : (after ((setR start 0 500).withWorld ⟨12, 34, [], []⟩) 0x7019 0 1).regRead 0 = 12 ∧
    (after ((setR start 0 500).withWorld ⟨12, 34, [], []⟩) 0x7019 0 1).memRead 501 = 34 := by decide
-- W2.
theorem test_getxy_second_wins : (after (start.withWorld ⟨12, 34, [], []⟩) 0x5019 5 5).regRead 5 = 34 := by decide
-- W6.
theorem test_energy : (after { start with energy := 1 } 0x401A 2 0).regRead 2 = 1 ∧ (after { start with energy := 1 } 0x401A 2 0).energy = 0 := by decide
-- W7 and W9, to (9, 9).
theorem test_travel_moves : (after (scripted (setR start 0 2) [.move (some (9, 9))]) 0x401B 0 0).energy = 90 ∧
    (after (scripted (setR start 0 2) [.move (some (9, 9))]) 0x401B 0 0).world = ⟨9, 9, [], [.attemptMove 2 true]⟩ ∧
    (after (scripted { start with energy := 10 } [.move (some (9, 9))]) 0x801B 6 0).energy = 0 := by decide
-- R256: off the grid on either side, the move is refused; onto its last cell it is granted.
theorem test_travel_off_the_grid :
    (after (scripted small [.move (some (3, 0))]) 0x801B 2 0).world = ⟨1, 2, [], [.attemptMove 2 false]⟩ ∧
    (after (scripted small [.move (some (0, 4))]) 0x801B 1 0).energy = 99 ∧
    (after (scripted small [.move (some (2, 3))]) 0x801B 1 0).world = ⟨2, 3, [], [.attemptMove 1 true]⟩ := by decide
-- W10: no World call.
theorem test_travel_too_weak : (after (scripted { start with energy := 9, flags := flagsOf true false false false } [.move (some (9, 9))]) 0x801B 1 0).flags.success = false ∧
    (after (scripted { start with energy := 9 } []) 0x801B 1 0).world.log = [] ∧
    (after (scripted { start with energy := 9 } []) 0x801B 1 0).energy = 8 := by decide
-- W12.
theorem test_sense : (after (scripted start [.element 3]) 0x401E 1 0).regRead 1 = 3 ∧
    (after (scripted start [.element 3]) 0x401E 1 0).flags.success = true ∧
    (after (scripted start [.element 3]) 0x401E 1 0).world.log = [.elementAt 1 2 3, .position 1 2] := by decide
-- W13.
theorem test_sense_empty : (after (scripted { setR start 1 9 with flags := flagsOf true false false false } [.element 0]) 0x401E 1 0).flags.success = false := by decide
-- W23.
theorem test_eat_mutates : (after (scripted (start.memWrite 40 4660) [.element 9, .consumed (some (40, 0x00FF))]) 0x001F 0 0).memRead 40 = 4811 ∧
    (after (scripted (start.memWrite 40 4660) [.element 9, .consumed (some (40, 0x00FF))]) 0x001F 0 0).energy = 2099 := by decide
-- W19 and W20.
theorem test_eat_boundary : (after (scripted { start with energy := 63535 } [.element 3, .consumed none]) 0x001F 0 0).energy = 65534 ∧
    (after (scripted { start with energy := 63536 } [.element 3, .consumed none]) 0x001F 0 0).energy = 63535 := by decide
-- W29.
theorem test_release_all : (after (scripted { setR start 0 3000 with energy := 3000 } [.collected true]) 0x4021 0 0).energy = 0 ∧
    scoreOf (after (scripted { setR start 0 3000 with energy := 3000 } [.collected true]) 0x4021 0 0).world.log = 3000 := by decide
-- W27 and W28.
theorem test_release_refused : (after (scripted { start with energy := 3000, flags := flagsOf true true true false } [.collected false]) 0x8021 500 0).flags = flagsOf false true true false ∧
    (after (scripted { start with energy := 3000 } []) 0x8021 3001 0).world.log = [] := by decide
-- W31 and W34.
theorem test_rand : (after (scripted start [.random 3]) 0x6020 0 4).regRead 0 = 3 ∧
    (after (scripted (setR start 0 10) [.random 9]) 0x5020 0 0).regRead 0 = 9 := by decide
-- W33: the call is made.
theorem test_rand_bound_zero : (after (scripted (setR start 0 5) [.random 7]) 0x6020 0 0).regRead 0 = 0 ∧
    (after (scripted (setR start 0 5) [.random 7]) 0x6020 0 0).world.log = [.nextRandom 0 0] := by decide
-- U1.
theorem test_charge : (after { start with ip := 9, energy := 50 } 0x0022 0 0).ip = 12 ∧ (after { start with ip := 9, energy := 50 } 0x0022 0 0).energy = 49 := by decide
-- U2.
theorem test_poke : (after { start with energy := 7 } 0x6023 1 2).energy = 6 ∧ (after { start with energy := 7 } 0x6023 1 2).regRead 1 = 0 := by decide
-- U3.
theorem test_peek : (after { setR (setR start 1 5) 2 6 with ip := 3 } 0x5024 1 2).regRead 1 = 5 ∧ (after { start with ip := 3 } 0x5024 1 2).ip = 6 := by decide
-- U4.
theorem test_cksum : (after { start with ip := 3597 } 0x0025 0 0).ip = 0 := by decide
-- U5 and U6.
theorem test_undefined : (after { start with ip := 30, energy := 9 } 0x00FF 5 6).ip = 33 ∧ (after { start with energy := 9 } 0xF026 0xFFFF 0xFFFF).energy = 8 := by decide

/-! ### Norm, reset, loader, observation, the host's placing -/

-- R24, its examples.
theorem test_norm : [normIp 0, normIp 7, normIp 9, normIp 3598, normIp 3599, normIp 3600, normIp 3601, normIp 65535, normIp 65534] =
    [0, 9, 9, 0, 0, 0, 3, 735, 735] := by decide
-- R28.
theorem test_flags_value : flagsValue (flagsOf true false false true) = 9 ∧ flagsValue (flagsOf false true false false) = 2 := by decide
-- R302.
theorem test_load_refuses_a_short_image : load Config.defaultParams WorldPort.initial [1, 2, 3] = none := by decide
-- R6: an INIT_ENERGY of 0 and a map that is no bijection are no parameters (log 3).
theorem test_load_refuses_parameters (image : List Word) :
    load { Config.defaultParams with initEnergy := 0 } WorldPort.initial image = none ∧
    load { Config.defaultParams with opcodeMap := [.nop] } WorldPort.initial image = none :=
  ⟨load_refuses (.inr (.inl (by decide))), load_refuses (.inr (.inl (by decide)))⟩
-- R6, R255: the World places the organism on the grid (log 22).
theorem test_load_refuses_a_position_off_the_grid (image : List Word) : load small.cfg { start.world with x := 3 } image = none :=
  load_refuses (.inr (.inr (by decide)))
-- R54: two readings of one byte file.
theorem test_bytes : imageOfBytes .little [0x01, 0x60, 5, 0] = some [0x6001, 5] ∧ imageOfBytes .big [0x60, 0x01, 0, 5] = some [0x6001, 5] ∧
    imageOfBytes .big [0x60] = none := by decide
-- R99, its examples.
theorem test_disassemble : disassemble Config.opcodeMap ⟨0x6001, 0, 5⟩ 0 = "MOV r0, 5" ∧ disassemble Config.opcodeMap ⟨0xD80F, 0x3FFE, 1⟩ 0 = "ADD [r3-2], r1" ∧
    disassemble Config.opcodeMap ⟨0x8006, 0xFFF7, 0⟩ 15 = "JMP 6" := by decide
-- V2, V12 and U5 (Char 123 and 125 are the braces).
theorem test_disassemble_other_shapes : disassemble Config.opcodeMap ⟨0x1001, 200, 1⟩ 0 = "MOV [200], r1" ∧ disassemble Config.opcodeMap ⟨0x7001, 0, 0xF007⟩ 0 = "MOV r0, [r15+7]" ∧
    disassembleChars Config.opcodeMap ⟨0xFF, 5, 6⟩ 0 = "data ".toList ++ [Char.ofNat 123] ++ " 255 5 6 ".toList ++ [Char.ofNat 125] := by decide
-- The next step runs the word placed.
theorem test_with_fetch_word : (match step (State.reset.withFetchWord 48 0x000500036001) with | .next t => t.regRead 3 | _ => 0) = 5 := by decide
-- A frozen core runs it too (log 15).
theorem test_with_fetch_word_frozen : (match step ({ State.reset with energy := 0 }.withFetchWord 48 0x000500036001) with | .next t => t.regRead 3 | _ => 0) = 5 := by decide

/-! ### Witnesses: for every statement with hypotheses, a state and operands that meet all of them, at the ends of each range -/

/-- The state `exec` answers. -/
def ran (i : Instr) (s : State) : State :=
  match exec i s with
  | .next t => t
  | _ => s

/-- A start state at (1, 2) with nothing scripted, and one whose next meal is element 3 and mutates the word at 40. -/
def plain : State := scripted start []
def fed : State := scripted (start.memWrite 40 4660) [.element 3, .consumed (some (40, 1))]

theorem test_witness_encoded : Instr.wf (.add (.indexed 3 (-4096)) (.indexed 15 4095)) = true := by decide
theorem test_witness_opcode_map : OpcodeMap.wf Config.opcodeMap = true ∧ OpcodeMap.wf swapped = true := by decide
theorem test_witness_codec : Decoded.wf ⟨255, .indexed 15 (-4096), .register 65535⟩ = true ∧ canonical ⟨0x6001, 0, 5⟩ = true ∧
    canonical ⟨0x6301, 0, 5⟩ = false := by decide
theorem test_witness_control_flow_immediates : (∃ m ∈ controlFlowMnemonics, opcodeMnemonic Config.opcodeMap 14 = some m) ∧
    ¬(∃ m ∈ controlFlowMnemonics, opcodeMnemonic Config.opcodeMap 15 = some m) ∧
    ¬(∃ m ∈ controlFlowMnemonics, opcodeMnemonic Config.opcodeMap 200 = some m) := by decide
theorem test_witness_opcode_ends : (0xFF25 : Word).toNat % 256 = 37 ∧ (0x0026 : Word).toNat % 256 = 38 := by decide
theorem test_witness_unused_slots : (opcodeRow Config.opcodeMap (field 0xFC00 opcodePos 8)).map OpcodeRow.op1 = some .unused ∧
    field 0x0000 opcodePos 8 = field 0xFC00 opcodePos 8 ∧ (opcodeRow Config.opcodeMap (field 0x7002 opcodePos 8)).map OpcodeRow.op2 = some .unused ∧
    field 0x4402 opcodePos 8 = field 0x7002 opcodePos 8 ∧ field 0x4402 mode1Pos 2 = field 0x7002 mode1Pos 2 ∧
    field 0x4402 sub1Pos 1 = field 0x7002 sub1Pos 1 := by decide
theorem test_witness_register_ends : (setR start 13 7).regRead 13 = 7 ∧ setR plain 14 7 = plain := by decide
theorem test_witness_memory_ends : (start.memWrite 0 7).memRead 0 = 7 ∧ (start.memWrite 3599 7).memRead 3599 = 7 ∧
    plain.memWrite (-1) 7 = plain ∧ plain.memWrite 3600 7 = plain := by decide
theorem test_witness_written_operands : resolve (setR start 1 3598) (.indexed 1 1) = .mem 3599 ∧
    resolve (setR start 1 3598) (.indexed 1 2) = .mem 3600 ∧ resolve start (.indexed 1 (-1)) = .mem (-1) ∧
    resolve start (.direct 0) = .mem 0 ∧ resolve start (.register 13) = .reg 13 ∧ resolve start (.register 14) = .reg 14 := by decide
theorem test_witness_scripted : (4 : Word) ≠ 0 ∧ (3 : Word).toNat < (4 : Word).toNat := by decide
theorem test_witness_step_runs : start.energy ≠ 0 ∧ start.Inv ∧
    decode start.cfg.opcodeMap ⟨start.memRead start.instrAddr, start.memRead (start.instrAddr + 1), start.memRead (start.instrAddr + 2)⟩
      (u16 start.instrAddr) = .ok .nop := by decide
theorem test_witness_frozen : ({ start with energy := 0 } : State).energy = 0 ∧ ({ start with energy := 1 } : State).energy ≠ 0 := by decide
theorem test_witness_straight_path : start.energy ≠ 0 ∧ ∀ i, fetchInstr start = .ok i → transfersControl i = false :=
  ⟨by decide, fun i h => by rw [show fetchInstr start = .ok .nop by decide] at h; cases h; rfl⟩
theorem test_witness_undefined : start.energy ≠ 0 ∧ OpcodeMap.wf (start.memWrite 0 38).cfg.opcodeMap = true ∧ 37 < ((start.memWrite 0 38).memRead (start.memWrite 0 38).instrAddr).toNat % 256 := by decide
theorem test_witness_invariant_step : start.Inv ∧ step start = .next (ran .nop start) := ⟨by decide, by rfl⟩
theorem test_witness_configuration : step start = .next (ran .nop start) ∧ start.cfg.orgId ≠ -7 := ⟨by rfl, by decide⟩
theorem test_witness_invariant_top : ({ start with ip := 3597, sp := 0 } : State).Inv ∧ ({ start with ip := 3597, sp := 3600 } : State).Inv := by decide
theorem test_witness_load : (List.replicate 3600 (5 : Word)).length = 3600 ∧ (List.replicate 3599 (5 : Word)).length ≠ 3600 ∧
    Params.wf Config.defaultParams = true ∧ Params.wf { Config.defaultParams with initEnergy := 0 } = false ∧
    start.world.x.toNat < small.cfg.gridWidth ∧ start.world.y.toNat < small.cfg.gridHeight ∧ ¬(3 : Word).toNat < small.cfg.gridWidth :=
  ⟨List.length_replicate, by rw [List.length_replicate]; decide, by decide, by decide, by decide, by decide, by decide⟩
theorem test_witness_flags : exec (.cmp (.immediate 1) (.immediate 2)) start = .next (ran (.cmp (.immediate 1) (.immediate 2)) start) ∧
    (ran (.cmp (.immediate 1) (.immediate 2)) start).flags.less ≠ start.flags.less ∧
    exec (.test (.immediate 1) (.immediate 2)) start = .next (ran (.test (.immediate 1) (.immediate 2)) start) ∧
    (ran (.test (.immediate 1) (.immediate 2)) start).flags.success ≠ start.flags.success := ⟨by rfl, by decide, by rfl, by decide⟩
theorem test_witness_stack_push : exec (.push (.immediate 7)) { start with sp := 0 } = .next (ran (.push (.immediate 7)) { start with sp := 0 }) ∧
    (ran (.push (.immediate 7)) { start with sp := 0 }).sp ≠ 0 ∧ (ran (.push (.immediate 7)) start).sp ≠ start.sp := ⟨by rfl, by decide, by decide⟩
theorem test_witness_stack_pop : exec (.pop (.register 0)) { start with sp := 3599 } = .next (ran (.pop (.register 0)) { start with sp := 3599 }) ∧
    (ran (.pop (.register 0)) { start with sp := 3599 }).sp ≠ 3599 ∧ (ran .ret { start with sp := 3601 }).sp ≠ 3601 := ⟨by rfl, by decide, by decide⟩
theorem test_witness_registers_change : exec (.mov (.register 13) (.immediate 5)) start = .next (ran (.mov (.register 13) (.immediate 5)) start) ∧
    (ran (.mov (.register 13) (.immediate 5)) start).regRead 13 ≠ start.regRead 13 := ⟨by rfl, by decide⟩
theorem test_witness_memory_changes : exec (.mov (.direct 3599) (.immediate 5)) start = .next (ran (.mov (.direct 3599) (.immediate 5)) start) ∧
    (ran (.mov (.direct 3599) (.immediate 5)) start).memRead 3599 ≠ start.memRead 3599 ∧
    (ran (.push (.immediate 5)) start).memRead 3599 ≠ start.memRead 3599 ∧
    (ran .eat fed).memRead 40 ≠ fed.memRead 40 ∧ (ran .eat fed).world.log.head? = some (.consume 3 (some (40, 1))) :=
  ⟨by rfl, by decide, by decide, by decide, by decide⟩
theorem test_witness_world_calls : exec (.sense (.register 0)) fed = .next (ran (.sense (.register 0)) fed) ∧
    (ran .eat fed).flags.success = true ∧ (ran .eat (scripted start [.element 0])).flags.success = false := ⟨by rfl, by decide, by decide⟩
theorem test_witness_position : exec (.travel (.immediate 2)) (scripted start [.move (some (9, 9))]) =
      .next (ran (.travel (.immediate 2)) (scripted start [.move (some (9, 9))])) ∧
    (ran (.travel (.immediate 2)) (scripted start [.move (some (9, 9))])).world.x ≠ (scripted start [.move (some (9, 9))]).world.x :=
  ⟨by rfl, by decide⟩
theorem test_witness_energy : fed.energy ≠ 0 ∧ step (fed.memWrite 0 0x001F) = .next (ran .eat (fed.memWrite 0 0x001F)) ∧
    step plain = .next (ran .nop plain) ∧ ∀ amt, fetchInstr plain ≠ .ok (.release amt) :=
  ⟨by decide, by rfl, by rfl, fun amt h => by rw [show fetchInstr plain = .ok .nop by decide] at h; cases h⟩
theorem test_witness_freezes : ∀ k : Nat, k < ({ plain with energy := 2 } : State).energy.toNat → ∀ u t : State,
    Host.Core.run Sys2Proof.core k { plain with energy := 2 } = .next u → step u = .next t → u.energy ≠ 0 →
    fetchInstr u = .ok .eat → t.flags.success = false := by
  intro k hk u t hu _ _ he
  have hk2 : k < 2 := hk
  obtain rfl | rfl : k = 0 ∨ k = 1 := by omega
  · rw [show u = { plain with energy := 2 } by cases hu; rfl] at he; exact absurd he (by decide)
  · rw [show u = ran .nop { plain with energy := 2 } by cases hu; rfl] at he; exact absurd he (by decide)
/-- A core on an empty cell with one EAT to run and 1 energy. -/
def hungry : State := { scripted (start.memWrite 0 0x001F) [.element 0] with energy := 1 }
theorem test_witness_freezes_after_a_failed_eat : ∀ k : Nat, k < hungry.energy.toNat → ∀ u t : State,
    Host.Core.run Sys2Proof.core k hungry = .next u → step u = .next t → u.energy ≠ 0 →
    fetchInstr u = .ok .eat → t.flags.success = false := by
  intro k hk u t hu ht _ _
  have hk1 : k < 1 := hk
  obtain rfl : k = 0 := by omega
  rw [show u = hungry by cases hu; rfl] at ht
  rw [show t = ran .eat hungry by cases ht; rfl]
  decide
theorem test_witness_store_then_fetch : resolve start (.direct 3599) = .mem 3599 ∧ resolve (setR start 1 1) (.indexed 1 2) = .mem 3 ∧
    (ran (.mov (.indexed 1 2) (.immediate 5)) (setR start 1 1)).instrAddr = 3 ∧ destinations (.pop (.direct 3)) = [.direct 3] ∧
    InMemory 3 ∧ 1 ≤ start.sp.toNat ∧ start.sp.toNat ≤ 3600 := by decide
theorem test_witness_mutation_then_fetch : exec .eat fed = .next (ran .eat fed) ∧ fed.cfg.immuneToMutation = false ∧ (40 : Word).toNat < 3600 ∧
    (ran .eat fed).world.log.head? = some (.consume 3 (some (40, 1))) := ⟨by rfl, by decide, by decide, by decide⟩
theorem test_witness_nop_family : (Instr.nop, 0) ∈ [(Instr.nop, 0), (Instr.charge, 34), (Instr.poke, 35), (Instr.peek, 36), (Instr.cksum, 37)] ∧
    (Instr.cksum, 37) ∈ [(Instr.nop, 0), (Instr.charge, 34), (Instr.poke, 35), (Instr.peek, 36), (Instr.cksum, 37)] ∧
    (0xFC25 : Word).toNat % 256 = 37 := by decide
theorem test_witness_conditional_jumps : (Instr.jle (.immediate 30), 8, true) ∈
    [(Instr.jl (.immediate 30), 7, (flagsOf false false true false).less),
      (Instr.jle (.immediate 30), 8, (flagsOf false false true false).less || (flagsOf false false true false).equal)] := by decide
theorem test_witness_arithmetic : (Instr.sub (.register 0) (.immediate 1), 16, 65535) ∈
    [(Instr.add (.register 0) (.immediate 1), 15, ((readOp start (.register 0)).toNat + (readOp start (.immediate 1)).toNat) % 65536),
      (Instr.sub (.register 0) (.immediate 1), 16, ((readOp start (.register 0)).toNat + 65536 - (readOp start (.immediate 1)).toNat) % 65536)] := by decide
theorem test_witness_div_mod : (Instr.div (.register 0) (.immediate 1), 18, 0) ∈
    [(Instr.div (.register 0) (.immediate 1), 18, (readOp start (.register 0)).toNat / (readOp start (.immediate 1)).toNat)] ∧
    readOp start (.immediate 0) = 0 ∧ readOp start (.immediate 1) ≠ 0 := by decide
theorem test_witness_logic (dst src : Operand) : (Instr.xor dst src, 22, Bool.xor) ∈
    [(Instr.and dst src, 20, Bool.and), (Instr.or dst src, 21, Bool.or), (Instr.xor dst src, 22, Bool.xor)] := by simp
theorem test_witness_shift_counts : modedCount .zeroAt16 15 = 15 ∧ modedCount .zeroAt16 16 = 16 ∧ modedCount .mod32 16 = 16 ∧
    modedCount .mod32 32 = 0 ∧ modedCount .mod16 16 = 0 ∧ (Instr.shl (.immediate 3) (.immediate 16), 28, 0) ∈
      [(Instr.shl (.immediate 3) (.immediate 16), 28, (3 : Word).toNat * 2 ^ modedCount start.cfg.shiftMode (16 : Word).toNat % 65536)] := by decide
theorem test_witness_travel : 10 ≤ ({ start with energy := 10 } : State).energy.toNat ∧ ({ start with energy := 9 } : State).energy.toNat < 10 := by decide
theorem test_witness_on_the_grid : small.OnGrid ∧ 10 ≤ ({ small with energy := 10 } : State).energy.toNat ∧
    ({ small with world := { small.world with x := 2, y := 3 } } : State).OnGrid ∧
    (scripted small [.move (some (3, 0))]).OnGrid ∧ (scripted small [.move (some (3, 0))]).world.script = [.move (some (3, 0))] ∧
    small.cfg.gridWidth ≤ (3 : Word).toNat ∧ small.cfg.gridHeight ≤ (4 : Word).toNat := by decide
theorem test_witness_travel_on_the_grid : exec (.travel (.immediate 1)) (scripted small [.move (some (2, 3))]) =
    .next (ran (.travel (.immediate 1)) (scripted small [.move (some (2, 3))])) := by rfl
theorem test_witness_eat_fails : elementUnder (scripted start [.element 0]).world = 0 ∧
    elementUnder (scripted start [.element 0xFFFF]).world = 0xFFFF ∧ 63535 < ({ fed with energy := 63536 } : State).energy.toNat := by decide
theorem test_witness_eat_succeeds : elementUnder ({ fed with energy := 63535 } : State).world = 3 ∧ (3 : Word) ≠ 0 ∧ (3 : Word) ≠ 0xFFFF ∧
    ({ fed with energy := 63535 } : State).energy.toNat ≤ 63535 ∧ fed.cfg.immuneToMutation = false ∧
    (ran .eat fed).world.log.head? = some (.consume 3 (some (40, 1))) ∧
    (ran .eat (scripted start [.element 3, .consumed none])).world.log.head? = some (.consume 3 none) := by decide
theorem test_witness_release : (readOp start (.immediate 100)).toNat ≤ start.energy.toNat ∧
    start.energy.toNat < (readOp start (.immediate 101)).toNat := by decide
theorem test_witness_rand : readOp start (.immediate 0) = 0 ∧ readOp start (.immediate 4) ≠ 0 := by decide

end Sys2Proof.Tests
end

section
/-! Register access (R22): the rules of `RegRead` and `RegWrite` on both sides of the bound, and O8. -/

namespace Sys2Proof.Machine

/-- A read inside the register file gives the register (R22). -/
theorem regRead_inside {s : State} {i : Nat} (h : i < 14) : s.regRead i = s.regs[i] := by
  rw [State.regRead, Vector.getElem?_eq_getElem h, Option.getD_some]

/-- A write outside the register file is discarded (R22). -/
theorem regWrite_outside {s : State} {i : Nat} (v : Word) (h : ¬i < 14) : s.regWrite i v = s := by
  have hregs : s.regs.setIfInBounds i v = s.regs := Vector.setIfInBounds_eq_of_size_le (Nat.le_of_not_lt h)
  rw [State.regWrite, hregs, State.withRegs]

/-- `RegRead` of any index after a write inside the register file (R22). -/
theorem regRead_regWrite_inside {s : State} {i : Nat} (v : Word) (h : i < 14) (j : Nat) :
    (s.regWrite i v).regRead j = if j = i then v else s.regRead j := by
  simp only [regRead_regWrite, h, and_true, @eq_comm _ i j]

/-- Settles O8, by the rules of a read and of a write on each side of the bound. -/
theorem registerAccessIsBoundsChecked : Obligations.RegisterAccessIsBoundsChecked := by
  intro s i v
  refine ⟨fun h => regRead_inside h, fun above => ?_, fun upTo => ⟨?_, rfl⟩⟩
  · have outside : ¬i < 14 := by omega
    exact ⟨regRead_outside outside, regWrite_outside v outside⟩
  · exact regRead_regWrite_inside v (Nat.lt_succ_of_le upTo)

end Sys2Proof.Machine
end

section
/-! Memory reads (R52): the rule of `MemRead` inside the memory, the operands and the fetch that use it, and O9. -/

namespace Sys2Proof.Machine

/-- The addresses that exist, by the bounds R52 names. -/
theorem inMemory_iff {a : Int} : InMemory a ↔ 0 ≤ a ∧ a ≤ 3599 := by
  have size : (Config.memWords : Int) = 3600 := rfl
  rw [InMemory, size]
  omega

/-- A read inside the memory gives the word held there (R52). -/
theorem memRead_inside {s : State} {a : Int} (h : InMemory a) : s.memRead a = memLookup s.mem a.toNat := if_pos h

/-- A Direct operand reads one word, at its address (R136). -/
@[simp] theorem readOp_direct (s : State) (a : Word) : readOp s (.direct a) = s.memRead a.toNat := rfl

/-- An indexed operand reads one word, at its effective address (R136). -/
@[simp] theorem readOp_indexed (s : State) (reg : BitVec 4) (off : Int) :
    readOp s (.indexed reg off) = s.memRead (effectiveAddress s reg off) := rfl

/-- A fetch reads the three words from the instruction's address on (R132). -/
theorem fetch_eq (s : State) :
    fetch s = ⟨s.memRead s.instrAddr, s.memRead (s.instrAddr + 1), s.memRead (s.instrAddr + 2)⟩ := rfl

/-- In a state of the invariant the instruction's address is `ip` (R35). -/
theorem instrAddr_eq_ip_of_inv {s : State} (h : s.Inv) : s.instrAddr = s.ip.toNat := by
  obtain ⟨aligned, upTo, -⟩ := h
  exact instrAddr_eq_ip aligned (Nat.lt_of_le_of_lt upTo (by decide))

/-- In a state of the invariant the three words of a fetch exist (R35). -/
theorem fetch_in_range_of_inv {s : State} (h : s.Inv) : s.ip.toNat + 2 ≤ 3599 := by
  obtain ⟨-, upTo, -⟩ := h
  omega

/-- Settles O9, by the rule of a read on each side of the bounds and by the place of `ip` under the invariant. -/
theorem memoryReadsAreBoundsChecked : Obligations.MemoryReadsAreBoundsChecked := by
  intro s a w reg off
  refine ⟨fun inside => memRead_inside (inMemory_iff.2 inside), fun outside => memRead_outside fun inside => ?_,
    readOp_direct s w, readOp_indexed s reg off, fun inv => ⟨?_, fetch_in_range_of_inv inv⟩⟩
  · have bounds := inMemory_iff.1 inside
    omega
  · rw [fetch_eq, instrAddr_eq_ip_of_inv inv]

end Sys2Proof.Machine
end

section
/-! Operand reads (R136): the rules of the two modes that read no memory, beside those of Direct and indexed operands, and O11. -/

namespace Sys2Proof.Machine

/-- A Register operand reads the register, whole, whatever its index (R22, R136). -/
@[simp] theorem readOp_register (s : State) (i : Word) : readOp s (.register i) = s.regRead i.toNat := rfl

/-- An Immediate operand is its own value (R136). -/
@[simp] theorem readOp_immediate (s : State) (v : Word) : readOp s (.immediate v) = v := rfl

/-- Settles O11, by the rule of a read in each of the four modes. -/
theorem operandsAreReadByMode : Obligations.OperandsAreReadByMode := fun s a reg off =>
  ⟨readOp_direct s a, readOp_register s a, readOp_immediate s a, readOp_indexed s reg off⟩

end Sys2Proof.Machine
end

section
/-! The tick (R130): every meaning answers a next state (R144), what a tick does in each of its three ways, ticks of a
frozen core in a row, and O15. -/

namespace Sys2Proof.Machine

/-! ### Every meaning answers a next state (R144, R280) -/

theorem finish_answers (s : State) (next cost : Nat) : ∃ t, finish s next cost = .next t := ⟨_, finish_eq s next cost⟩

theorem advance_answers (s : State) : ∃ t, advance s = .next t := ⟨_, advance_eq s⟩

theorem jumpWhen_answers (taken : Bool) (addr : Operand) (s : State) : ∃ t, jumpWhen taken addr s = .next t :=
  ⟨_, jumpWhen_eq taken addr s⟩

/-- The common form of R190 advances, whether it writes its destination or not. -/
theorem binaryOp_answers (f : Word → Word → Option Word) (dst src : Operand) (s : State) :
    ∃ t, binaryOp f dst src s = .next t := by
  rw [binaryOp]
  split
  · exact advance_answers _
  · exact advance_answers s

/-- TRAVEL advances, with or without a call on the World (R223). -/
theorem execTravel_answers (dir : Operand) (s : State) : ∃ t, execTravel dir s = .next t := by
  rw [execTravel]
  split
  · exact advance_answers _
  · exact finish_answers _ _ _

/-- EAT advances, whether it succeeds or fails (R225). -/
theorem execEat_answers (s : State) : ∃ t, execEat s = .next t := by
  rw [execEat]
  dsimp only
  split
  · exact advance_answers _
  · exact advance_answers _

/-- RELEASE advances in each of its three outcomes (R226). -/
theorem execRelease_answers (amt : Operand) (s : State) : ∃ t, execRelease amt s = .next t := by
  rw [execRelease]
  dsimp only
  split
  · split
    · exact advance_answers _
    · exact advance_answers _
  · exact advance_answers _

/-- No instruction faults and none is refused: each ends in `finish`, whatever its operands and the World's answers. -/
theorem exec_answers (i : Instr) (s : State) : ∃ t, exec i s = .next t := by
  cases i with
  | nop | charge | poke | peek | cksum => exact advance_answers s
  | mov | push | pop | cmp | test | getxy | energy | sense | rand => exact advance_answers _
  | call | ret => exact finish_answers _ _ _
  | jmp addr | jl addr | jle addr | jg addr | jge addr | je addr | jne addr | js addr | jns addr =>
    exact jumpWhen_answers _ addr s
  | add dst src | sub dst src | mult dst src | div dst src | mod dst src | and dst src | or dst src | xor dst src
  | shl dst src | shr dst src =>
    rw [exec]
    exact binaryOp_answers _ dst src s
  | travel dir => exact execTravel_answers dir s
  | eat => exact execEat_answers s
  | release amt => exact execRelease_answers amt s

/-! ### The three ways of a tick (R130, R143) -/

/-- A tick leaves a frozen core as it is (R30). -/
theorem step_frozen {s : State} (h : s.Frozen) : step s = .next s := if_pos h

/-- With energy left, a tick executes the instruction decoded. -/
theorem step_of_fetchInstr_ok {s : State} {i : Instr} (h : s.energy ≠ 0) (hf : fetchInstr s = .ok i) :
    step s = exec i s := by
  rw [step, if_neg h, hf]

/-- With energy left, a tick executes NOP where the words name no instruction (R245). -/
theorem step_of_fetchInstr_error {s : State} {r : DecodeReject} (h : s.energy ≠ 0) (hf : fetchInstr s = .error r) :
    step s = execUndefined s := by
  rw [step, if_neg h, hf]

/-! ### Ticks in a row -/

/-- A run is its first tick, then the rest from the state that tick answers. -/
theorem run_succ_of_step {M : Host.Core} {s t : M.State} (h : M.step s = .next t) (n : Nat) :
    M.run (n + 1) s = M.run n t := by
  rw [Host.Core.run, h]

/-- Any number of ticks leaves a frozen core as it is (R30, R130). -/
theorem run_frozen {s : State} (h : s.Frozen) (n : Nat) : Host.Core.run Sys2Proof.core n s = .next s := by
  induction n with
  | zero => rfl
  | succ n ih => exact (run_succ_of_step (M := Sys2Proof.core) (step_frozen h) n).trans ih

/-- Settles O15: a frozen core by induction on the ticks, a live one by whether the words fetched name an instruction. -/
theorem frozenCoreIgnoresTicks : Obligations.FrozenCoreIgnoresTicks := by
  refine fun s => ⟨run_frozen, fun live => ?_⟩
  cases hf : fetchInstr s with
  | ok i =>
    obtain ⟨t, ht⟩ := exec_answers i s
    exact ⟨t, (step_of_fetchInstr_ok live hf).trans ht, .inl ⟨i, rfl, ht⟩⟩
  | error r =>
    obtain ⟨t, ht⟩ := advance_answers s
    exact ⟨t, (step_of_fetchInstr_error live hf).trans ht, .inr ⟨r, rfl, ht⟩⟩

end Sys2Proof.Machine
end

section
/-! The opcode byte (R81, R92): the number an instruction's canonical words carry, the words of an instruction without
operands, and what a low byte decodes to. -/

namespace Sys2Proof

/-- The table of R92 is a map of R6: every mnemonic has one number. -/
theorem opcodeMap_wf : OpcodeMap.wf Config.opcodeMap = true := by decide

/-- The opcode field of a word 0 is its low byte (R81). -/
theorem field_opcode_toNat (w : Word) : (field w opcodePos 8).toNat = w.toNat % 256 := by
  simp [field, opcodePos]

/-- An opcode byte placed in word 0 is the number it holds (R81). -/
theorem place_opcode (n : BitVec 8) : place n opcodePos = u16 n.toNat := by
  apply BitVec.eq_of_toNat_eq
  simp [place, opcodePos]

/-- The canonical words of every instruction carry its number in the table of R92. -/
theorem hasOpcode_idxOf (i : Instr) : Machine.HasOpcode i (Config.opcodeMap.idxOf (mnemonicOf i)) := by
  intro ip
  obtain ⟨opcode, -⟩ := Laws.opcode_byte_of_encode i Config.opcodeMap ip
  obtain ⟨number, -⟩ := opcodeNumber_toNat opcodeMap_wf (mnemonicOf i)
  rw [← field_opcode_toNat, opcode, number]

/-- With both slots unused, the canonical words are the opcode number and two zero words (R91). -/
theorem encode_of_unused_slots {map : OpcodeMap} (h : OpcodeMap.wf map = true) {i : Instr}
    (slots : slotsOf i = (unusedSlot, unusedSlot)) (ip : Word) :
    encode map i ip = ⟨u16 (map.idxOf (mnemonicOf i)), 0, 0⟩ := by
  obtain ⟨number, -⟩ := opcodeNumber_toNat h (mnemonicOf i)
  rw [← number, ← place_opcode]
  simp [encode, decodedOf, slots, encodeWords, unusedSlot, modeOf, subOf, payloadOf, place]

/-- A low byte that is a mnemonic's number decodes to that mnemonic's instruction, whatever else the words hold (R90, R92). -/
theorem decode_of_low_byte {map : OpcodeMap} (h : OpcodeMap.wf map = true) {m : Mnemonic} {w : Words}
    (low : w.w0.toNat % 256 = map.idxOf m) (ip : Word) :
    decode map w ip = .ok (instrNamed m (decodeWords map w ip).op1 (decodeWords map w ip).op2) := by
  obtain ⟨number, -⟩ := opcodeNumber_toNat h m
  have opcode : (decodeWords map w ip).opcode = opcodeNumber map m :=
    BitVec.eq_of_toNat_eq (by rw [number, ← low]; exact field_opcode_toNat w.w0)
  rw [decode, instrOf, opcode, opcodeMnemonic_opcodeNumber h]

end Sys2Proof
end

section
/-! Data movement (R161, R162) and the reserved opcodes (R241 to R244): the normal advance and a write followed by it, in
the frames of the statements, then O33 and O34. -/

namespace Sys2Proof.Machine

/-! ### The normal advance and the write of a destination, as frames -/

/-- The normal advance answers a state that differs in `ip` and `energy` only (R131, R141, R142). -/
theorem advance_frame (s : State) :
    ∃ t, advance s = .next t ∧ t = { s with ip := normIp (s.instrAddr + 3), energy := t.energy } ∧
      t.energy.toNat = s.energy.toNat - 1 :=
  ⟨_, advance_eq s, rfl, energy_after_cost s.energy 1⟩

/-- A write changes its destination and no other register or memory word (R137). -/
theorem writeLoc_stored (s : State) (l : Loc) (v : Word) : Stored s (writeLoc s l v) l v :=
  ⟨writeLoc_regRead s l v, writeLoc_memRead s l v⟩

/-- A destination written and then the normal advance: the destination holds the word, and all else keeps. -/
theorem advance_writeLoc (s : State) (l : Loc) (v : Word) :
    ∃ t, advance (writeLoc s l v) = .next t ∧ Stored s t l v ∧ KeepsTheRest s t ∧ Advanced s t := by
  obtain ⟨t, answers, frame, cost⟩ := advance_frame (writeLoc s l v)
  obtain ⟨hcfg, hip, hsp, hflags, henergy, hworld⟩ := writeLoc_frame s l v
  obtain ⟨hregs, hmem⟩ := writeLoc_stored s l v
  have stored : Stored s t l v := by
    rw [frame]
    exact ⟨hregs, hmem⟩
  have rest : KeepsTheRest s t := by
    rw [frame]
    exact ⟨hcfg, hsp, hflags, hworld⟩
  have next : t.ip = normIp (s.instrAddr + 3) := by
    rw [frame, instrAddr_congr hip]
  exact ⟨t, answers, stored, rest, next, by rw [cost, henergy]⟩

/-! ### NOP, the reserved opcodes and MOV -/

/-- NOP and the four reserved opcodes, with their numbers (R92). -/
def nopFamily : List (Instr × Nat) := [(.nop, 0), (.charge, 34), (.poke, 35), (.peek, 36), (.cksum, 37)]

/-- No operand slot of the family is used, neither by the encoder nor by the decoder, the numbers are those of R92, and the
meaning is the normal advance (R161, R240). -/
theorem nopFamily_facts {i : Instr} {n : Nat} (h : (i, n) ∈ nopFamily) :
    slotsOf i = (unusedSlot, unusedSlot) ∧ (∀ o1 o2, instrNamed (mnemonicOf i) o1 o2 = i) ∧
      Config.opcodeMap.idxOf (mnemonicOf i) = n ∧ ∀ s, exec i s = advance s := by
  simp only [nopFamily, List.mem_cons, Prod.mk.injEq, List.not_mem_nil, or_false] at h
  rcases h with ⟨rfl, rfl⟩ | ⟨rfl, rfl⟩ | ⟨rfl, rfl⟩ | ⟨rfl, rfl⟩ | ⟨rfl, rfl⟩ <;>
    exact ⟨rfl, fun _ _ => rfl, by decide, fun _ => rfl⟩

/-- Settles O33: each part holds of every instruction without operands whose meaning is the normal advance. -/
theorem nopAndReservedOpcodesOnlyAdvance : Obligations.NopAndReservedOpcodesOnlyAdvance := by
  intro i n hi
  obtain ⟨slots, named, number, meaning⟩ := nopFamily_facts hi
  refine ⟨fun ip => ?_, fun w ip low => ?_, fun s => ?_⟩
  · rw [encode_of_unused_slots opcodeMap_wf slots, number]
  · rw [decode_of_low_byte opcodeMap_wf (low.trans number.symm), named]
  · rw [meaning]
    exact advance_frame s

/-- What MOV does: its destination is resolved and its source read in the old state, then the write and the advance (R162). -/
theorem exec_mov (dst src : Operand) (s : State) :
    exec (.mov dst src) s = advance (writeLoc s (resolve s dst) (readOp s src)) := rfl

/-- Settles O34, by the number of MOV in the table and the rule of a write followed by the normal advance. -/
theorem movWritesTheSource : Obligations.MovWritesTheSource := by
  intro dst src s
  refine ⟨hasOpcode_idxOf (.mov dst src), ?_⟩
  rw [exec_mov]
  exact advance_writeLoc s (resolve s dst) (readOp s src)

end Sys2Proof.Machine
end

section
/-! The canonical words of an instruction read back at the address they were encoded for (R89, R91, R93): its opcode, an
Immediate operand 1, and what decoder and disassembler make of them. -/

namespace Sys2Proof

/-- The relative rule follows the mnemonic under every map (R89). -/
theorem relativeBase_opcodeNumber {map : OpcodeMap} (h : OpcodeMap.wf map = true) (m : Mnemonic) (ip : Word) :
    relativeBase map (opcodeNumber map m) ip = if m.row.relative then ip else 0 := by
  rw [relativeBase, isRelative, opcodeMnemonic_opcodeNumber h]

/-- An Immediate operand 1 is stored as its distance from the base of its opcode (R89, R91). -/
theorem encode_w1_of_immediate {i : Instr} {v : Word} (slot : (slotsOf i).1 = .immediate v) (map : OpcodeMap)
    (ip : Word) : (encode map i ip).w1 = v - relativeBase map (opcodeNumber map (mnemonicOf i)) ip := by
  rw [encode, encodeWords, decodedOf, slot, payloadOf]

/-- The base taken away from an Immediate comes back when it is decoded with the same base (R89, R90). -/
theorem decodeOperand_immediate (v base : Word) :
    decodeOperand (modeOf (.immediate v)) (subOf (.immediate v)) (payloadOf (.immediate v) base) base = .immediate v :=
  congrArg Operand.immediate (add_sub_cancel base v)

/-- Decoding canonical words gives the opcode number of the instruction (R90, R91). -/
theorem decodeWords_encode_opcode (map : OpcodeMap) (i : Instr) (ip : Word) :
    (decodeWords map (encode map i ip) ip).opcode = opcodeNumber map (mnemonicOf i) := by
  obtain ⟨opcode, -⟩ := Laws.opcode_byte_of_encode i map ip
  exact opcode

/-- Operand 1 of canonical words is decoded from the mode, flag and payload of the instruction's first slot, with the base
they were encoded with (R81, R90, R91). -/
theorem decodeWords_encode_op1 (map : OpcodeMap) (i : Instr) (ip : Word) :
    (decodeWords map (encode map i ip) ip).op1 = decodeOperand (modeOf (slotsOf i).1) (subOf (slotsOf i).1)
      (encode map i ip).w1 (relativeBase map (opcodeNumber map (mnemonicOf i)) ip) := by
  obtain ⟨mode1, -, sub1, -, opcode, -⟩ := field_word0 (modeOf (slotsOf i).1) (modeOf (slotsOf i).2)
    (subOf (slotsOf i).1) (subOf (slotsOf i).2) (opcodeNumber map (mnemonicOf i))
  simp only [decodeWords, encode, encodeWords, decodedOf, mode1, sub1, opcode]

/-- Decoding canonical words at their own address gives an Immediate operand 1 again, relative or not (R89). -/
theorem decodeWords_encode_op1_of_immediate {i : Instr} {v : Word} (slot : (slotsOf i).1 = .immediate v)
    (map : OpcodeMap) (ip : Word) : (decodeWords map (encode map i ip) ip).op1 = .immediate v := by
  rw [decodeWords_encode_op1, encode_w1_of_immediate slot, slot]
  exact decodeOperand_immediate v _

/-- Canonical words decode to an instruction of the same mnemonic, with the operands the decoder finds in them (R90, R91). -/
theorem decode_encode {map : OpcodeMap} (h : OpcodeMap.wf map = true) (i : Instr) (ip : Word) :
    decode map (encode map i ip) ip = .ok (instrNamed (mnemonicOf i) (decodeWords map (encode map i ip) ip).op1
      (decodeWords map (encode map i ip) ip).op2) := by
  rw [decode, instrOf, decodeWords_encode_opcode, opcodeMnemonic_opcodeNumber h]

/-- Canonical words show as the mnemonic and the operands the decoder finds in them (R99). -/
theorem disassembleChars_encode {map : OpcodeMap} (h : OpcodeMap.wf map = true) (i : Instr) (ip : Word) :
    Machine.disassembleChars map (encode map i ip) ip = (mnemonicOf i).row.text.toList ++
      Machine.operandsText (mnemonicOf i).row (decodeWords map (encode map i ip) ip) := by
  simp only [Machine.disassembleChars, opcodeRow, decodeWords_encode_opcode, opcodeMnemonic_opcodeNumber h, Option.map_some]

end Sys2Proof
end

section
/-! Control flow (R170, R173): the end of a step as a frame, jumps by it, and O39. -/

namespace Sys2Proof.Machine

/-- The last two phases of a step change `ip` and `energy` and nothing else (R141, R142). -/
theorem finish_frame (s : State) (next cost : Nat) :
    ∃ t, finish s next cost = .next t ∧ SameStore s t ∧ KeepsTheRest s t ∧ EndsAt s t next cost :=
  ⟨_, finish_eq s next cost, ⟨fun _ => rfl, fun _ => rfl⟩, ⟨rfl, rfl, rfl, rfl⟩, rfl, energy_after_cost s.energy cost⟩

/-- A jump ends at its target if it is taken and at the next instruction if not, at cost 1; nothing else changes (R170). -/
theorem jumpWhen_frame (taken : Bool) (addr : Operand) (s : State) :
    ∃ t, jumpWhen taken addr s = .next t ∧ SameStore s t ∧ KeepsTheRest s t ∧
      EndsAt s t (if taken then (readOp s addr).toNat else s.instrAddr + 3) 1 :=
  finish_frame s _ 1

/-- JMP is the jump that is always taken (R173). -/
theorem exec_jmp (addr : Operand) (s : State) : exec (.jmp addr) s = jumpWhen true addr s := rfl

/-- A JMP shows its first operand after its mnemonic (R99). -/
theorem operandsText_jmp (d : Decoded) : operandsText (Mnemonic.row .jmp) d = ' ' :: operandText d.op1 := rfl

/-- JMP's Immediate target is stored relative, and decodes and disassembles at the same address to the target again,
whatever the address and the numbering (R89, R173). -/
theorem jmp_immediate_codec {map : OpcodeMap} (h : OpcodeMap.wf map = true) (target ip : Word) :
    (encode map (.jmp (.immediate target)) ip).w1 = target - ip ∧
    decode map (encode map (.jmp (.immediate target)) ip) ip = .ok (.jmp (.immediate target)) ∧
    disassembleChars map (encode map (.jmp (.immediate target)) ip) ip = "JMP ".toList ++ decimal target.toNat := by
  have slot : (slotsOf (.jmp (.immediate target))).1 = .immediate target := rfl
  have op1 := decodeWords_encode_op1_of_immediate slot map ip
  refine ⟨?stored, ?decoded, ?shown⟩
  case stored =>
    rw [encode_w1_of_immediate slot, relativeBase_opcodeNumber h]
    rfl
  case decoded =>
    rw [decode_encode h, op1]
    rfl
  case shown =>
    rw [disassembleChars_encode h, mnemonicOf, operandsText_jmp, op1]
    rfl

/-- Settles O39, by JMP's number in the table, the codec on its Immediate target, and the frame of a jump that is taken. -/
theorem jmpGoesToItsTarget : Obligations.JmpGoesToItsTarget := by
  intro addr s
  refine ⟨hasOpcode_idxOf (.jmp addr), fun map target ip wf => jmp_immediate_codec wf target ip, ?_⟩
  rw [exec_jmp]
  exact jumpWhen_frame true addr s

end Sys2Proof.Machine
end

section
/-! Arithmetic and logic (R190 to R193, R196 to R198): the common form where every pair of operands has a result, sum,
difference and product as words, then O41 and O43. -/

namespace Sys2Proof.Machine

/-- The common form of R190 with a result for every pair of operands: the result goes to the destination, then the normal
advance. -/
theorem binaryOp_total (g : Word → Word → Word) (dst src : Operand) (s : State) :
    ∃ t, binaryOp (fun d v => some (g d v)) dst src s = .next t ∧
      Stored s t (resolve s dst) (g (readOp s dst) (readOp s src)) ∧ KeepsTheRest s t ∧ Advanced s t :=
  advance_writeLoc s (resolve s dst) (g (readOp s dst) (readOp s src))

/-! ### Word arithmetic as exact arithmetic, reduced (R191 to R193) -/

/-- A word whose value is `n` reduced is `u16` of that value (R9). -/
theorem eq_u16_of_toNat {w : Word} {n : Nat} (h : w.toNat = n % 65536) : w = u16 (n % 65536) := by
  rw [← h, u16, BitVec.ofNat_toNat, BitVec.setWidth_eq]

theorem add_eq_u16 (d v : Word) : d + v = u16 ((d.toNat + v.toNat) % 65536) :=
  eq_u16_of_toNat (BitVec.toNat_add d v)

/-- The difference is taken above 65536, so that it is exact among the naturals (R192). -/
theorem sub_eq_u16 (d v : Word) : d - v = u16 ((d.toNat + 65536 - v.toNat) % 65536) := by
  apply eq_u16_of_toNat
  have bound : v.toNat < 65536 := v.isLt
  rw [BitVec.toNat_sub]
  omega

theorem mul_eq_u16 (d v : Word) : d * v = u16 (d.toNat * v.toNat % 65536) :=
  eq_u16_of_toNat (BitVec.toNat_mul d v)

/-- Settles O41: each of the three is the common form with its word operation, which is the exact one reduced. -/
theorem addSubMultReduceModulo65536 : Obligations.AddSubMultReduceModulo65536 := by
  intro i n result dst src s hi
  simp only [List.mem_cons, Prod.mk.injEq, List.not_mem_nil, or_false] at hi
  obtain ⟨opcode, g, meaning, value⟩ : HasOpcode i n ∧ ∃ g : Word → Word → Word,
      exec i s = binaryOp (fun d v => some (g d v)) dst src s ∧ g (readOp s dst) (readOp s src) = u16 result := by
    rcases hi with ⟨rfl, rfl, rfl⟩ | ⟨rfl, rfl, rfl⟩ | ⟨rfl, rfl, rfl⟩
    · exact ⟨hasOpcode_idxOf (.add dst src), (· + ·), rfl, add_eq_u16 _ _⟩
    · exact ⟨hasOpcode_idxOf (.sub dst src), (· - ·), rfl, sub_eq_u16 _ _⟩
    · exact ⟨hasOpcode_idxOf (.mult dst src), (· * ·), rfl, mul_eq_u16 _ _⟩
  rw [meaning, ← value]
  exact ⟨opcode, binaryOp_total g dst src s⟩

/-- Settles O43: each of the three is the common form with its word operation, which works on every bit alone. -/
theorem andOrXorWorkBitByBit : Obligations.AndOrXorWorkBitByBit := by
  intro i n f dst src s hi
  simp only [List.mem_cons, Prod.mk.injEq, List.not_mem_nil, or_false] at hi
  obtain ⟨opcode, g, meaning, bitwise⟩ : HasOpcode i n ∧ ∃ g : Word → Word → Word,
      exec i s = binaryOp (fun d v => some (g d v)) dst src s ∧
        ∀ (d v : Word) (k : Nat), (g d v).getLsbD k = f (d.getLsbD k) (v.getLsbD k) := by
    rcases hi with ⟨rfl, rfl, rfl⟩ | ⟨rfl, rfl, rfl⟩ | ⟨rfl, rfl, rfl⟩
    · exact ⟨hasOpcode_idxOf (.and dst src), (· &&& ·), rfl, fun _ _ _ => BitVec.getLsbD_and⟩
    · exact ⟨hasOpcode_idxOf (.or dst src), (· ||| ·), rfl, fun _ _ _ => BitVec.getLsbD_or⟩
    · exact ⟨hasOpcode_idxOf (.xor dst src), (· ^^^ ·), rfl, fun _ _ _ => BitVec.getLsbD_xor⟩
  obtain ⟨t, answers, stored, rest, advanced⟩ := binaryOp_total g dst src s
  exact ⟨opcode, t, _, meaning.trans answers, stored, rest, advanced, fun k _ => bitwise _ _ k⟩

end Sys2Proof.Machine
end

section
/-! The straight path (R131, R141, R280): an instruction that transfers no control ends at the address of the next three
words, as does a tick that fetches no control transfer, and O16. -/

namespace Sys2Proof.Machine

/-! ### The ends of a step, by the `ip` they leave (R141) -/

theorem ip_of_finish {s t : State} {next cost : Nat} (h : finish s next cost = .next t) : t.ip = normIp next := by
  rw [finish_eq] at h
  cases h
  rfl

/-- An advance from `u` goes to the words after those at `s.ip`, if what led from `s` to `u` kept `ip`. -/
theorem ip_of_advance {s u t : State} (kept : u.ip = s.ip) (h : advance u = .next t) :
    t.ip = normIp (s.instrAddr + 3) := by
  rw [← instrAddr_congr kept]
  exact ip_of_finish h

/-- A mutation leaves `ip` as it is (R261): code changed under the core does not divert it. -/
theorem applyMutation_ip (s : State) (m : Option (Word × Word)) : (applyMutation s m).ip = s.ip := by
  rw [applyMutation_frame, State.withMem_ip]

/-! ### The meanings that branch -/

theorem ip_of_binaryOp {f : Word → Word → Option Word} {dst src : Operand} {s t : State}
    (h : binaryOp f dst src s = .next t) : t.ip = normIp (s.instrAddr + 3) := by
  obtain ⟨v, -, written⟩ | ⟨-, skipped⟩ := binaryOp_cases h
  · exact ip_of_advance (writeLoc_ip s _ v) written
  · exact ip_of_advance rfl skipped

theorem ip_of_execTravel {dir : Operand} {s t : State} (h : execTravel dir s = .next t) :
    t.ip = normIp (s.instrAddr + 3) := by
  obtain ⟨-, tooWeak⟩ | ⟨-, m, -, asked⟩ := execTravel_cases h
  · exact ip_of_advance (State.setSuccess_ip s false) tooWeak
  · exact ip_of_finish asked

theorem ip_of_execEat {s t : State} (h : execEat s = .next t) : t.ip = normIp (s.instrAddr + 3) := by
  obtain ⟨e, -, ⟨-, failed⟩ | ⟨-, c, m, -, rfl, eaten⟩⟩ := execEat_cases h
  · exact ip_of_advance (by simp) failed
  · exact ip_of_advance (by simp [applyMutation_ip]) eaten

theorem ip_of_execRelease {amt : Operand} {s t : State} (h : execRelease amt s = .next t) :
    t.ip = normIp (s.instrAddr + 3) := by
  obtain ⟨-, tooMuch⟩ | ⟨-, c, -, ⟨-, collected⟩ | ⟨-, refused⟩⟩ := execRelease_cases h
  · exact ip_of_advance (State.setSuccess_ip s false) tooMuch
  · exact ip_of_advance (by simp) collected
  · exact ip_of_advance (by simp) refused

/-! ### Every instruction, then the tick -/

/-- What precedes the advance in such a meaning (operand writes, stack, flags, energy, the World's calls) keeps `ip`. -/
theorem ip_of_exec_straight {i : Instr} {s t : State} (straight : transfersControl i = false)
    (h : exec i s = .next t) : t.ip = normIp (s.instrAddr + 3) := by
  cases i with
  | call | ret | jmp | jl | jle | jg | jge | je | jne | js | jns => cases straight
  | nop | charge | poke | peek | cksum => exact ip_of_advance rfl h
  | mov | push | pop | cmp | test | getxy | energy | sense | rand => exact ip_of_advance (by simp) h
  | add | sub | mult | div | mod | and | or | xor | shl | shr =>
    rw [exec] at h
    exact ip_of_binaryOp h
  | travel dir => exact ip_of_execTravel h
  | eat => exact ip_of_execEat h
  | release amt => exact ip_of_execRelease h

/-- No tick faults and none is refused: it leaves the core frozen, or executes an instruction, or NOP (R130, R245). -/
theorem step_answers (s : State) : ∃ t, step s = .next t := by
  by_cases frozen : s.Frozen
  · exact ⟨s, step_frozen frozen⟩
  · obtain ⟨-, live⟩ := frozenCoreIgnoresTicks s
    obtain ⟨t, answers, -⟩ := live frozen
    exact ⟨t, answers⟩

/-- With energy left, a tick that fetches no control transfer goes to the next three words; so does one that fetches no
instruction at all, which runs NOP (R245). -/
theorem ip_of_step_straight {s t : State} (live : s.energy ≠ 0)
    (straight : ∀ i, fetchInstr s = .ok i → transfersControl i = false) (h : step s = .next t) :
    t.ip = normIp (s.instrAddr + 3) := by
  obtain ⟨frozen, -⟩ | ⟨-, i, fetched, executed⟩ | ⟨-, r, -, executed⟩ := step_cases h
  · exact absurd frozen live
  · exact ip_of_exec_straight (straight i fetched) executed
  · exact ip_of_advance rfl executed

/-- Settles O16: the type of faults is empty, every meaning and every tick answers, and all that comes before the advance
of a straight instruction keeps `ip`. -/
theorem everyStepAnswersANextState : Obligations.EveryStepAnswersANextState := by
  refine ⟨nofun, fun i s => ?_, fun s => ?_⟩
  · obtain ⟨t, answers⟩ := exec_answers i s
    exact ⟨t, answers, fun straight => ip_of_exec_straight straight answers⟩
  · obtain ⟨t, answers⟩ := step_answers s
    exact ⟨t, answers, fun live straight => ip_of_step_straight live straight answers⟩

end Sys2Proof.Machine
end

section
/-! The codec round trip (R81 to R93): an operand read back from its mode, flag and payload and rebuilt from them, word 0 as
its fields, the canonical twin, then O2 and O3. -/

namespace Sys2Proof

/-! ### Operands (R82, R87, R88) -/

/-- The offset range of a well-formed indexed operand (R85). -/
theorem wf_indexed_iff {reg : BitVec 4} {off : Int} :
    (Operand.indexed reg off).wf = true ↔ -4096 ≤ off ∧ off ≤ 4095 := by
  simp [Operand.wf]

/-- An offset in range is read back from its subtract flag and 12-bit field (R88). -/
theorem offsetOf_subOf {reg : BitVec 4} {off : Int} (h : (Operand.indexed reg off).wf = true) :
    offsetOf (subOf (.indexed reg off)) (BitVec.ofInt 12 off) = off := by
  obtain ⟨low, high⟩ := wf_indexed_iff.1 h
  by_cases negative : off < 0
  · rw [subOf, if_pos negative, offsetOf, if_pos (by decide), BitVec.toNat_ofInt]
    omega
  · rw [subOf, if_neg negative, offsetOf, if_neg (by decide), BitVec.toNat_ofInt]
    omega

/-- What the decoder makes of flag and field is in range, negative exactly with the flag, and gives the field back (R88). -/
theorem offsetOf_facts (sub : BitVec 1) (fld : BitVec 12) :
    -4096 ≤ offsetOf sub fld ∧ offsetOf sub fld ≤ 4095 ∧ (offsetOf sub fld < 0 ↔ sub = 1#1) ∧
      BitVec.ofInt 12 (offsetOf sub fld) = fld := by
  have bound := fld.isLt
  by_cases negative : sub = 1#1
  · simp only [offsetOf, negative, if_true]
    refine ⟨by omega, by omega, by simp; omega, BitVec.eq_of_toNat_eq ?_⟩
    rw [BitVec.toNat_ofInt]
    omega
  · simp only [offsetOf, negative, if_false]
    refine ⟨by omega, by omega, by simp, BitVec.eq_of_toNat_eq ?_⟩
    rw [BitVec.toNat_ofInt]
    omega

/-- The decoder inverts the encoder on every operand of the domain, whatever the base (R85, R93). -/
theorem decodeOperand_of_encoded {o : Operand} (h : o.wf = true) (base : Word) :
    decodeOperand (modeOf o) (subOf o) (payloadOf o base) base = o := by
  cases o with
  | direct a => rfl
  | register i => rfl
  | immediate v => exact decodeOperand_immediate v base
  | indexed reg off =>
    obtain ⟨register, offset⟩ := field_payload reg (BitVec.ofInt 12 off)
    have decoded : decodeOperand (modeOf (.indexed reg off)) (subOf (.indexed reg off))
        (payloadOf (.indexed reg off) base) base = .indexed
          (field (place reg regPos ||| place (BitVec.ofInt 12 off) offsetPos) regPos 4)
          (offsetOf (subOf (.indexed reg off))
            (field (place reg regPos ||| place (BitVec.ofInt 12 off) offsetPos) offsetPos 12)) := rfl
    rw [decoded, register, offset, offsetOf_subOf h]

/-- The four modes of R82. -/
theorem mode_cases (mode : BitVec 2) : mode = 0 ∨ mode = 1 ∨ mode = 2 ∨ mode = 3 := by
  revert mode
  decide

/-- A decoded operand is in the domain, has the mode and payload it was read from, and has the subtract flag it was read
from in mode 3 and a clear one in every other mode (R83, R85, R88). -/
theorem decodeOperand_facts (mode : BitVec 2) (sub : BitVec 1) (payload base : Word) :
    (decodeOperand mode sub payload base).wf = true ∧ modeOf (decodeOperand mode sub payload base) = mode ∧
      subOf (decodeOperand mode sub payload base) = (if mode = 3 then sub else 0) ∧
      payloadOf (decodeOperand mode sub payload base) base = payload := by
  rcases mode_cases mode with rfl | rfl | rfl | rfl
  · exact ⟨rfl, rfl, rfl, rfl⟩
  · exact ⟨rfl, rfl, rfl, rfl⟩
  · exact ⟨rfl, rfl, rfl, add_sub_cancel_left base payload⟩
  · obtain ⟨low, high, negative, back⟩ := offsetOf_facts sub (field payload offsetPos 12)
    have decoded : decodeOperand 3 sub payload base =
        .indexed (field payload regPos 4) (offsetOf sub (field payload offsetPos 12)) := rfl
    rw [decoded]
    refine ⟨wf_indexed_iff.2 ⟨low, high⟩, rfl, ?_, ?_⟩
    · simp only [subOf, negative, if_true]
      rcases BitVec.eq_zero_or_eq_one sub with rfl | rfl <;> rfl
    · rw [payloadOf, back, payload_of_fields]

/-- The subtract flag does not matter in a mode other than 3 (R83). -/
theorem decodeOperand_sub_congr {mode : BitVec 2} {sub sub' : BitVec 1} (h : mode = 3 → sub = sub') (payload base : Word) :
    decodeOperand mode sub payload base = decodeOperand mode sub' payload base := by
  rcases mode_cases mode with rfl | rfl | rfl | rfl
  · rfl
  · rfl
  · rfl
  · rw [h rfl]

/-! ### Word 0 (R81, R84) and the canonical twin (R93) -/

/-- Two words 0 with the same six fields are the same (R81). -/
theorem word0_ext {v w : Word} (mode1 : field v mode1Pos 2 = field w mode1Pos 2)
    (mode2 : field v mode2Pos 2 = field w mode2Pos 2) (sub1 : field v sub1Pos 1 = field w sub1Pos 1)
    (sub2 : field v sub2Pos 1 = field w sub2Pos 1) (opcode : field v opcodePos 8 = field w opcodePos 8)
    (reserved : field v 8 2 = field w 8 2) : v = w := by
  rw [← word0_of_fields v, ← word0_of_fields w, mode1, mode2, sub1, sub2, opcode, reserved]

/-- The twin keeps opcode and modes, clears bits 9:8, and clears each subtract flag whose mode is not 3 (R93). -/
theorem field_canonicalTwin (w : Words) :
    field (canonicalTwin w).w0 mode1Pos 2 = field w.w0 mode1Pos 2 ∧
    field (canonicalTwin w).w0 mode2Pos 2 = field w.w0 mode2Pos 2 ∧
    field (canonicalTwin w).w0 sub1Pos 1 = (if field w.w0 mode1Pos 2 = 3 then field w.w0 sub1Pos 1 else 0) ∧
    field (canonicalTwin w).w0 sub2Pos 1 = (if field w.w0 mode2Pos 2 = 3 then field w.w0 sub2Pos 1 else 0) ∧
    field (canonicalTwin w).w0 opcodePos 8 = field w.w0 opcodePos 8 ∧
    field (canonicalTwin w).w0 8 2 = 0 := by
  unfold canonicalTwin
  dsimp only
  split <;> split <;> refine ⟨?_, ?_, ?_, ?_, ?_, ?_⟩ <;> apply BitVec.eq_of_getLsbD_eq <;> intro i hi <;>
    interval_cases i <;>
    simp only [getLsbD_field, BitVec.getLsbD_and, mode1Pos, mode2Pos, sub1Pos, sub2Pos, opcodePos] <;> simp

/-- The condition of R93, field by field: bits 9:8 clear, each subtract flag clear unless its mode is 3. -/
theorem canonical_iff (w : Words) :
    canonical w = true ↔ field w.w0 8 2 = 0 ∧
      (if field w.w0 mode1Pos 2 = 3 then field w.w0 sub1Pos 1 else 0) = field w.w0 sub1Pos 1 ∧
      (if field w.w0 mode2Pos 2 = 3 then field w.w0 sub2Pos 1 else 0) = field w.w0 sub2Pos 1 := by
  simp only [canonical, Bool.and_eq_true, Bool.or_eq_true, decide_eq_true_iff, and_assoc, ite_eq_left_iff,
    or_iff_not_imp_left, @eq_comm _ (0 : BitVec 1)]

/-- A word triple is its own twin exactly if it is canonical (R93). -/
theorem canonicalTwin_eq_self_iff (w : Words) : canonicalTwin w = w ↔ canonical w = true := by
  obtain ⟨mode1, mode2, sub1, sub2, opcode, reserved⟩ := field_canonicalTwin w
  rw [canonical_iff]
  constructor
  · intro same
    rw [same] at sub1 sub2 reserved
    exact ⟨reserved, sub1.symm, sub2.symm⟩
  · rintro ⟨clear, clear1, clear2⟩
    have word0 : (canonicalTwin w).w0 = w.w0 := word0_ext mode1 mode2 (sub1.trans clear1) (sub2.trans clear2) opcode
      (reserved.trans clear.symm)
    exact congrArg (fun v => (⟨v, w.w1, w.w2⟩ : Words)) word0

/-! ### Decoder and encoder (R90, R91, R93) -/

/-- The decoder gives the encoder's opcode byte back, and each operand that is in the domain of R85, whatever the other
operand is (R90, R91). -/
theorem decodeWords_encodeWords_fields (map : OpcodeMap) (d : Decoded) (ip : Word) :
    (decodeWords map (encodeWords map d ip) ip).opcode = d.opcode ∧
    (d.op1.wf = true → (decodeWords map (encodeWords map d ip) ip).op1 = d.op1) ∧
    (d.op2.wf = true → (decodeWords map (encodeWords map d ip) ip).op2 = d.op2) := by
  obtain ⟨mode1, mode2, sub1, sub2, opcode, -⟩ :=
    field_word0 (modeOf d.op1) (modeOf d.op2) (subOf d.op1) (subOf d.op2) d.opcode
  simp only [decodeWords, encodeWords, mode1, mode2, sub1, sub2, opcode]
  exact ⟨trivial, fun wf1 => decodeOperand_of_encoded wf1 _, fun wf2 => decodeOperand_of_encoded wf2 0⟩

/-- The decoder inverts the encoder on the domain of R85, for every opcode byte, at every address (R93). -/
theorem decodeWords_encodeWords (map : OpcodeMap) {d : Decoded} (h : d.wf = true) (ip : Word) :
    decodeWords map (encodeWords map d ip) ip = d := by
  obtain ⟨wf1, wf2⟩ := Bool.and_eq_true_iff.1 h
  obtain ⟨opcode, op1, op2⟩ := decodeWords_encodeWords_fields map d ip
  calc decodeWords map (encodeWords map d ip) ip
      = ⟨d.opcode, d.op1, d.op2⟩ := by rw [← opcode, ← op1 wf1, ← op2 wf2]
    _ = d := rfl

/-- What the decoder produces is in the domain of R85. -/
theorem decodeWords_wf (map : OpcodeMap) (w : Words) (ip : Word) : (decodeWords map w ip).wf = true := by
  obtain ⟨wf1, -⟩ := decodeOperand_facts (field w.w0 mode1Pos 2) (field w.w0 sub1Pos 1) w.w1
    (relativeBase map (field w.w0 opcodePos 8) ip)
  obtain ⟨wf2, -⟩ := decodeOperand_facts (field w.w0 mode2Pos 2) (field w.w0 sub2Pos 1) w.w2 0
  exact Bool.and_eq_true_iff.2 ⟨wf1, wf2⟩

/-- The bits the twin clears are those the decoder ignores (R83, R84). -/
theorem decodeWords_canonicalTwin (map : OpcodeMap) (w : Words) (ip : Word) :
    decodeWords map (canonicalTwin w) ip = decodeWords map w ip := by
  obtain ⟨mode1, mode2, sub1, sub2, opcode, -⟩ := field_canonicalTwin w
  have op1 := decodeOperand_sub_congr (fun h => sub1.trans (if_pos h)) w.w1
    (relativeBase map (field w.w0 opcodePos 8) ip)
  have op2 := decodeOperand_sub_congr (fun h => sub2.trans (if_pos h)) w.w2 0
  simp only [decodeWords, mode1, mode2, opcode]
  exact congrArg₂ (Decoded.mk _) op1 op2

/-- Encoding what was decoded gives the canonical twin (R93). -/
theorem encodeWords_decodeWords (map : OpcodeMap) (w : Words) (ip : Word) :
    encodeWords map (decodeWords map w ip) ip = canonicalTwin w := by
  obtain ⟨-, mode1, sub1, payload1⟩ := decodeOperand_facts (field w.w0 mode1Pos 2) (field w.w0 sub1Pos 1) w.w1
    (relativeBase map (field w.w0 opcodePos 8) ip)
  obtain ⟨-, mode2, sub2, payload2⟩ := decodeOperand_facts (field w.w0 mode2Pos 2) (field w.w0 sub2Pos 1) w.w2 0
  obtain ⟨twinMode1, twinMode2, twinSub1, twinSub2, twinOpcode, twinReserved⟩ := field_canonicalTwin w
  have word0 := word0_of_fields (canonicalTwin w).w0
  rw [twinMode1, twinMode2, twinSub1, twinSub2, twinOpcode, twinReserved] at word0
  have clear : place (0 : BitVec 2) 8 = 0#16 := by decide
  rw [clear, BitVec.or_zero] at word0
  simp only [encodeWords, decodeWords, mode1, mode2, sub1, sub2, payload1, payload2, word0]
  rfl

/-- The slots of a well-formed instruction are in the domain of R85. -/
theorem decodedOf_wf (map : OpcodeMap) {i : Instr} (h : i.wf = true) : (decodedOf map i).wf = true := by
  cases i with
  | nop | ret | eat | charge | poke | peek | cksum => rfl
  | push | pop | call | jmp | jl | jle | jg | jge | je | jne | js | jns | energy | travel | sense | release =>
    exact Bool.and_eq_true_iff.2 ⟨h, rfl⟩
  | mov | add | sub | mult | div | mod | and | or | xor | cmp | test | getxy | shl | shr | rand => exact h

/-- What the decoder finds in the canonical words of a well-formed instruction (R93). -/
theorem decodeWords_encode (map : OpcodeMap) {i : Instr} (h : i.wf = true) (ip : Word) :
    decodeWords map (encode map i ip) ip = decodedOf map i :=
  decodeWords_encodeWords map (decodedOf_wf map h) ip

/-- Settles O2: the decoder finds the instruction's slots again, and mnemonic and slots are the instruction. -/
theorem encodedInstructionDecodesToItself : Obligations.EncodedInstructionDecodesToItself := by
  intro map i ip bijective wf
  rw [decode_encode bijective, decodeWords_encode map wf]
  exact congrArg Except.ok (instrNamed_of_slots i)

/-- Settles O3, by the two directions of the round trip and the twin's fields. -/
theorem codecInvertsOnCanonicalWords : Obligations.CodecInvertsOnCanonicalWords := by
  refine fun map => ⟨fun d ip wf => decodeWords_encodeWords map wf ip, fun w ip =>
    ⟨decodeWords_wf map w ip, decodeWords_canonicalTwin map w ip, encodeWords_decodeWords map w ip, ?_⟩⟩
  rw [encodeWords_decodeWords]
  exact canonicalTwin_eq_self_iff w

end Sys2Proof
end

section
/-! The opcode byte and what it governs: the mnemonic it stands for (R92, R95), the relative rule (R89), the slots in use
(R134) and the disassembly (R99), then O4 to O7 and O1. -/

namespace Sys2Proof

/-! ### The mnemonic of a byte (R92, R95) -/

/-- A byte stands for a mnemonic exactly if it is the mnemonic's number (R6: a bijection). -/
theorem opcodeMnemonic_eq_some_iff {map : OpcodeMap} (h : OpcodeMap.wf map = true) {opcode : BitVec 8} {m : Mnemonic} :
    opcodeMnemonic map opcode = some m ↔ opcode = opcodeNumber map m := by
  constructor
  · intro stands
    obtain ⟨-, m', stands', number⟩ | ⟨-, noMnemonic⟩ := opcodeMnemonic_cases h opcode
    · rw [stands, Option.some_inj] at stands'
      rw [stands', number]
    · simp [stands] at noMnemonic
  · rintro rfl
    exact opcodeMnemonic_opcodeNumber h m

/-- Words whose byte stands for a mnemonic decode to its instruction, with the operands the decoder finds (R90, R92). -/
theorem decode_of_opcodeMnemonic {map : OpcodeMap} {w : Words} {m : Mnemonic}
    (h : opcodeMnemonic map (field w.w0 opcodePos 8) = some m) (ip : Word) :
    decode map w ip = .ok (instrNamed m (decodeWords map w ip).op1 (decodeWords map w ip).op2) := by
  have opcode : (decodeWords map w ip).opcode = field w.w0 opcodePos 8 := rfl
  rw [decode, instrOf, opcode, h]

/-- Words whose byte stands for no mnemonic are rejected by that byte (R95). -/
theorem decode_of_no_mnemonic {map : OpcodeMap} {w : Words} (h : opcodeMnemonic map (field w.w0 opcodePos 8) = none)
    (ip : Word) : decode map w ip = .error (.undefinedOpcode (field w.w0 opcodePos 8)) := by
  have opcode : (decodeWords map w ip).opcode = field w.w0 opcodePos 8 := rfl
  rw [decode, instrOf, opcode, h]

/-- A low byte up to 37 stands for a mnemonic, whose number it is; one above stands for none (R92, R95). -/
theorem low_byte_cases {map : OpcodeMap} (h : OpcodeMap.wf map = true) (w : Word) :
    (w.toNat % 256 ≤ 37 ∧ ∃ m, opcodeMnemonic map (field w opcodePos 8) = some m ∧
      (opcodeNumber map m).toNat = w.toNat % 256) ∨
    (37 < w.toNat % 256 ∧ opcodeMnemonic map (field w opcodePos 8) = none) := by
  have byByte := opcodeMnemonic_cases h (field w opcodePos 8)
  rw [field_opcode_toNat] at byByte
  obtain ⟨low, m, stands, number⟩ | high := byByte
  · exact .inl ⟨low, m, stands, by rw [number, field_opcode_toNat]⟩
  · exact .inr high

/-- Settles O5, by the two sides of the bound on the low byte. -/
theorem onlyOpcodesAbove37AreRejected : Obligations.OnlyOpcodesAbove37AreRejected := by
  intro map w ip bijective
  obtain ⟨low, m, stands, number⟩ | ⟨high, noMnemonic⟩ := low_byte_cases bijective w.w0
  · refine ⟨fun _ => ⟨_, decode_of_opcodeMnemonic stands ip, ?_⟩, fun above => absurd low (by omega)⟩
    rw [decodedOf, mnemonicOf_instrNamed, number]
  · refine ⟨fun upTo => absurd upTo (by omega), fun _ => ?_⟩
    rw [decode_of_no_mnemonic noMnemonic, ← field_opcode_toNat, BitVec.ofNat_toNat, BitVec.setWidth_eq]

/-! ### The relative rule (R89) -/

/-- The mnemonics the table marks relative are the control-flow mnemonics (R89, R92). -/
theorem relative_iff (m : Mnemonic) : m.row.relative = true ↔ m ∈ Machine.controlFlowMnemonics := by cases m <;> decide

/-- A byte is relative exactly if it stands for a control-flow mnemonic (R89). -/
theorem isRelative_iff (map : OpcodeMap) (opcode : BitVec 8) :
    isRelative map opcode = true ↔ ∃ m ∈ Machine.controlFlowMnemonics, opcodeMnemonic map opcode = some m := by
  rw [isRelative]
  cases opcodeMnemonic map opcode with
  | none => simp
  | some m => simp [relative_iff]

/-- The numbers of the control-flow mnemonics in the table of R92. -/
theorem controlFlow_numbers (opcode : BitVec 8) :
    (∃ m ∈ Machine.controlFlowMnemonics, opcodeMnemonic Config.opcodeMap opcode = some m) ↔
      opcode.toNat ∈ [4, 6, 7, 8, 9, 10, 11, 12, 13, 14] := by
  have numbers : Machine.controlFlowMnemonics.map (fun m => (opcodeNumber Config.opcodeMap m).toNat) =
      [4, 6, 7, 8, 9, 10, 11, 12, 13, 14] := by decide
  rw [← numbers, List.mem_map]
  simp only [opcodeMnemonic_eq_some_iff opcodeMap_wf, ← BitVec.toNat_inj, @eq_comm _ opcode.toNat]

/-- Settles O4: an Immediate operand 1 is stored as its distance from the base of its opcode, and only the relative
mnemonics have one. -/
theorem controlFlowImmediatesAreRelative : Obligations.ControlFlowImmediatesAreRelative := by
  intro map opcode target ip other
  rw [← isRelative_iff]
  obtain ⟨-, op1, -⟩ := decodeWords_encodeWords_fields map ⟨opcode, .immediate target, other⟩ ip
  refine ⟨fun relative => ⟨?_, op1 rfl⟩, fun absolute => ?_, ?_, controlFlow_numbers opcode⟩
  · have bound : ip.toNat < 65536 := ip.isLt
    simp only [encodeWords, payloadOf, relativeBase, relative, if_true, BitVec.toNat_sub]
    omega
  · simp only [encodeWords, payloadOf, relativeBase, absolute, Bool.false_eq_true, if_false, sub_zero]
  · simp only [encodeWords, payloadOf, sub_zero]

/-! ### The slots in use (R134) -/

/-- The instruction of a mnemonic is the same whatever stands in a slot its row marks unused (R92, R134). -/
theorem instrNamed_congr {m : Mnemonic} {o1 o1' o2 o2' : Operand} (used1 : m.row.op1 ≠ .unused → o1 = o1')
    (used2 : m.row.op2 ≠ .unused → o2 = o2') : instrNamed m o1 o2 = instrNamed m o1' o2' := by
  cases m with
  | nop | ret | eat | charge | poke | peek | cksum => rfl
  | push | pop | call | jmp | jl | jle | jg | jge | je | jne | js | jns | energy | travel | sense | release =>
    rw [used1 nofun]
    rfl
  | mov | add | sub | mult | div | mod | and | or | xor | cmp | test | getxy | shl | shr | rand =>
    rw [used1 nofun, used2 nofun]

/-- No mnemonic uses operand 2 alone (R92). -/
theorem unused_op2_of_unused_op1 {m : Mnemonic} : m.row.op1 = .unused → m.row.op2 = .unused := by
  cases m <;> decide

/-- Settles O6: one byte stands for one mnemonic, whose instruction is made of the slots in use. -/
theorem unusedOperandSlotsAreIgnored : Obligations.UnusedOperandSlotsAreIgnored := by
  intro map w w' ip row hrow sameOpcode
  obtain ⟨m, stands, rfl⟩ := Option.map_eq_some_iff.1 hrow
  rw [decode_of_opcodeMnemonic stands, decode_of_opcodeMnemonic (sameOpcode ▸ stands)]
  refine ⟨fun unused1 => congrArg Except.ok (instrNamed_congr (fun used => absurd unused1 used) fun used =>
    absurd (unused_op2_of_unused_op1 unused1) used), fun unused2 mode sub payload => ?_⟩
  refine congrArg Except.ok (instrNamed_congr (fun _ => ?_) fun used => absurd unused2 used)
  simp only [decodeWords, sameOpcode, mode, sub, payload]

end Sys2Proof

namespace Sys2Proof.Machine

/-! ### The disassembly (R99) -/

/-- Words whose byte stands for a mnemonic show as it and the operands it uses (R99). -/
theorem disassembleChars_of_opcodeMnemonic {map : OpcodeMap} {w : Words} {m : Mnemonic}
    (h : opcodeMnemonic map (field w.w0 opcodePos 8) = some m) (ip : Word) :
    disassembleChars map w ip = m.row.text.toList ++ operandsText m.row (decodeWords map w ip) := by
  have opcode : (decodeWords map w ip).opcode = field w.w0 opcodePos 8 := rfl
  simp only [disassembleChars, opcodeRow, opcode, h, Option.map_some]

/-- Words whose byte stands for no mnemonic show as data (R99). -/
theorem disassembleChars_of_no_mnemonic {map : OpcodeMap} {w : Words}
    (h : opcodeMnemonic map (field w.w0 opcodePos 8) = none) (ip : Word) : disassembleChars map w ip = dataText w := by
  have opcode : (decodeWords map w ip).opcode = field w.w0 opcodePos 8 := rfl
  simp only [disassembleChars, opcodeRow, opcode, h, Option.map_none]

/-- The operand texts show the slots in use only, so those of an instruction built from a decoded triple are those of the
triple (R99, R134). -/
theorem operandsText_instrNamed (map : OpcodeMap) (m : Mnemonic) (d : Decoded) :
    operandsText m.row (decodedOf map (instrNamed m d.op1 d.op2)) = operandsText m.row d := by
  cases m <;> rfl

/-- An instruction built from a triple in the domain of R85 is well formed. -/
theorem instrNamed_wf (m : Mnemonic) {d : Decoded} (h : d.wf = true) : (instrNamed m d.op1 d.op2).wf = true := by
  obtain ⟨wf1, -⟩ := Bool.and_eq_true_iff.1 h
  cases m with
  | nop | ret | eat | charge | poke | peek | cksum => rfl
  | push | pop | call | jmp | jl | jle | jg | jge | je | jne | js | jns | energy | travel | sense | release => exact wf1
  | mov | add | sub | mult | div | mod | and | or | xor | cmp | test | getxy | shl | shr | rand => exact h

/-- The canonical words of a well-formed instruction show as its mnemonic and the operands it uses (R99). -/
theorem disassembleChars_encode_of_wf {map : OpcodeMap} (h : OpcodeMap.wf map = true) {i : Instr} (wf : i.wf = true)
    (ip : Word) : disassembleChars map (encode map i ip) ip =
      (mnemonicOf i).row.text.toList ++ operandsText (mnemonicOf i).row (decodedOf map i) := by
  rw [disassembleChars_encode h, decodeWords_encode map wf]

/-- Words that decode to an instruction show as its canonical words do (R99). -/
theorem disassembleChars_of_decode {map : OpcodeMap} (h : OpcodeMap.wf map = true) {w : Words} {ip : Word} {i : Instr}
    (decoded : decode map w ip = .ok i) : disassembleChars map w ip = disassembleChars map (encode map i ip) ip := by
  obtain ⟨-, m, stands, -⟩ | ⟨-, noMnemonic⟩ := low_byte_cases h w.w0
  · rw [decode_of_opcodeMnemonic stands] at decoded
    cases decoded
    rw [disassembleChars_encode_of_wf h (instrNamed_wf m (decodeWords_wf map w ip)), mnemonicOf_instrNamed,
      operandsText_instrNamed, disassembleChars_of_opcodeMnemonic stands]
  · rw [decode_of_no_mnemonic noMnemonic] at decoded
    cases decoded

/-- Settles O7: the text is made of the mnemonic and the decoded operands in use, on which the words agree. -/
theorem disassemblyShowsWhatIsDecoded : Obligations.DisassemblyShowsWhatIsDecoded := by
  refine fun map w ip bijective => ⟨fun i wf => disassembleChars_encode_of_wf bijective wf ip,
    fun i decoded => disassembleChars_of_decode bijective decoded, fun low => ?twin,
    fun high => ?data, fun target => ?jump⟩
  case twin =>
    obtain ⟨-, m, stands, -⟩ | ⟨above, -⟩ := low_byte_cases bijective w.w0
    · obtain ⟨-, -, -, -, opcode, -⟩ := field_canonicalTwin w
      rw [disassembleChars_of_opcodeMnemonic stands, disassembleChars_of_opcodeMnemonic (opcode ▸ stands),
        decodeWords_canonicalTwin]
    · omega
  case data =>
    obtain ⟨upTo, -⟩ | ⟨-, noMnemonic⟩ := low_byte_cases bijective w.w0
    · omega
    · exact disassembleChars_of_no_mnemonic noMnemonic ip
  case jump =>
    obtain ⟨-, -, shown⟩ := jmp_immediate_codec bijective target ip
    exact shown

/-- Settles O1: the decoder evaluates on each of the ten triples. -/
theorem writtenOutWordsDecode : Obligations.WrittenOutWordsDecode := by
  unfold Obligations.WrittenOutWordsDecode
  decide

end Sys2Proof.Machine
end

section
/-! The ends of a step after a body (R131, R141, R142), the stack (R165), and the instructions of data movement, control
transfer, arithmetic, compare and test by them: O35 to O38, O40, O42, O44 to O46. -/

namespace Sys2Proof.Machine

/-! ### Frames composed -/

/-- The normal advance after a body that kept `ip`: what the body left is kept, and `ip` counts from the state before it
(R131). -/
theorem advance_body {s u : State} (sameIp : u.ip = s.ip) :
    ∃ t, advance u = .next t ∧ SameStore u t ∧ KeepsTheRest u t ∧
      t.ip = normIp (s.instrAddr + 3) ∧ t.energy.toNat = u.energy.toNat - 1 := by
  obtain ⟨t, answers, store, rest, next, cost⟩ := finish_frame u (u.instrAddr + 3) 1
  exact ⟨t, answers, store, rest, instrAddr_congr sameIp ▸ next, cost⟩

/-- The normal advance after a body that kept `energy` too: the cost counts from the state before it (R131). -/
theorem advance_after {s u : State} (sameIp : u.ip = s.ip) (sameEnergy : u.energy = s.energy) :
    ∃ t, advance u = .next t ∧ SameStore u t ∧ KeepsTheRest u t ∧ Advanced s t := by
  obtain ⟨t, answers, store, rest, next, cost⟩ := advance_body sameIp
  exact ⟨t, answers, store, rest, next, sameEnergy ▸ cost⟩

/-- What was stored is still there where registers and memory keep. -/
theorem Stored.of_sameStore {s u t : State} {l : Loc} {v : Word} (stored : Stored s u l v) (same : SameStore u t) :
    Stored s t l v := by
  obtain ⟨sameRegs, sameMem⟩ := same
  obtain ⟨regs, mem⟩ := stored
  exact ⟨fun i => (sameRegs i).trans (regs i), fun a => (sameMem a).trans (mem a)⟩

/-! ### The stack pointer of a push and of a pop (R165) -/

theorem stackPush_sp_toNat (s : State) (v : Word) :
    (stackPush s v).sp.toNat = if s.sp = 0 then 3600 else s.sp.toNat - 1 := by
  rw [stackPush_sp]
  split
  · rfl
  · bv_omega

theorem stackDrop_sp_toNat (s : State) :
    (stackDrop s).sp.toNat = if 3600 ≤ s.sp.toNat then 3600 else s.sp.toNat + 1 := by
  rw [stackDrop_sp]
  simp only [Config.spReset, gt_iff_lt, Nat.lt_succ_iff]
  split
  · rfl
  · bv_omega

/-- A push and the end of the step, as PUSH and CALL have it (R163, R171). -/
theorem finish_stackPush (s : State) (v : Word) (next : Nat) :
    ∃ t, finish (stackPush s v) next 1 = .next t ∧
      t.sp.toNat = (if s.sp = 0 then 3600 else s.sp.toNat - 1) ∧
      (∀ a : Int, t.memRead a = if a = t.sp.toNat ∧ InMemory a then v else s.memRead a) ∧
      (∀ i : Nat, t.regRead i = s.regRead i) ∧
      t.cfg = s.cfg ∧ t.flags = s.flags ∧ t.world = s.world ∧ EndsAt s t next 1 := by
  obtain ⟨t, answers, ⟨regs, mem⟩, ⟨cfg, sp, flags, world⟩, ends⟩ := finish_frame (stackPush s v) next 1
  refine ⟨t, answers, ?_, fun a => ?_, regs, cfg, flags, world, ends⟩
  · rw [sp, stackPush_sp_toNat]
  · simp only [mem, sp, stackPush_memRead, @eq_comm _ a]

/-! ### Data movement and stack -/

/-- PUSH is a push and the end at the next three words (R163). -/
theorem exec_push (src : Operand) (s : State) :
    exec (.push src) s = finish (stackPush s (readOp s src)) (s.instrAddr + 3) 1 := rfl

/-- Settles O35, by the rule of a push and the end of the step. -/
theorem pushStoresBelowTheStackPointer : Obligations.PushStoresBelowTheStackPointer := by
  intro src s
  rw [exec_push]
  exact finish_stackPush s (readOp s src) (s.instrAddr + 3)

/-- POP writes the word popped to the destination resolved before, then advances (R164). -/
theorem exec_pop (dst : Operand) (s : State) :
    exec (.pop dst) s = advance (writeLoc (stackDrop s) (resolve s dst) (s.memRead s.sp.toNat)) := rfl

/-- Settles O36: a pop moves `sp` alone, so the destination is written as in the old state. -/
theorem popTakesTheTopOfTheStack : Obligations.PopTakesTheTopOfTheStack := by
  intro dst s
  obtain ⟨t, answers, stored, ⟨cfg, sp, flags, world⟩, advanced⟩ :=
    advance_writeLoc (stackDrop s) (resolve s dst) (s.memRead s.sp.toNat)
  refine ⟨t, (exec_pop dst s).trans answers, ?_, stored, cfg, flags, world, advanced⟩
  rw [sp, stackDrop_sp_toNat]

/-! ### Control transfer -/

/-- CALL is a push of the return address and the end at the target read before it (R171). -/
theorem exec_call (addr : Operand) (s : State) :
    exec (.call addr) s = finish (stackPush s (u16 (s.instrAddr + 3))) (readOp s addr).toNat 1 := rfl

/-- Settles O37, by the rule of a push and the end of the step. -/
theorem callPushesTheReturnAddress : Obligations.CallPushesTheReturnAddress := by
  intro addr s
  rw [exec_call]
  exact finish_stackPush s (u16 (s.instrAddr + 3)) (readOp s addr).toNat

/-- RET is a pop and the end at the word popped (R172). -/
theorem exec_ret (s : State) : exec .ret s = finish (stackDrop s) (s.memRead s.sp.toNat).toNat 1 := rfl

/-- Settles O38: a pop moves `sp` alone, and the step ends at the word popped. -/
theorem retGoesToThePoppedWord : Obligations.RetGoesToThePoppedWord := by
  intro s
  obtain ⟨t, answers, store, ⟨cfg, sp, flags, world⟩, ends⟩ :=
    finish_frame (stackDrop s) (s.memRead s.sp.toNat).toNat 1
  refine ⟨t, (exec_ret s).trans answers, ?_, store, cfg, flags, world, ends⟩
  rw [sp, stackDrop_sp_toNat]

/-- Settles O40: each of the eight is a jump under its condition on the flags. -/
theorem conditionalJumpsFollowTheirFlags : Obligations.ConditionalJumpsFollowTheirFlags := by
  intro i n taken addr s hi
  simp only [List.mem_cons, Prod.mk.injEq, List.not_mem_nil, or_false] at hi
  obtain ⟨opcode, meaning⟩ : HasOpcode i n ∧ exec i s = jumpWhen taken addr s := by
    rcases hi with ⟨rfl, rfl, rfl⟩ | ⟨rfl, rfl, rfl⟩ | ⟨rfl, rfl, rfl⟩ | ⟨rfl, rfl, rfl⟩ | ⟨rfl, rfl, rfl⟩ |
      ⟨rfl, rfl, rfl⟩ | ⟨rfl, rfl, rfl⟩ | ⟨rfl, rfl, rfl⟩ <;> exact ⟨hasOpcode_idxOf _, rfl⟩
  rw [meaning]
  exact ⟨opcode, jumpWhen_frame taken addr s⟩

/-! ### Division and shifts -/

/-- The common form of R190 where the operands have no result: nothing is written. -/
theorem binaryOp_of_none {f : Word → Word → Option Word} {dst src : Operand} {s : State}
    (h : f (readOp s dst) (readOp s src) = none) : binaryOp f dst src s = advance s := by
  rw [binaryOp, h]

/-- The common form of R190 where the operands have a result: it goes to the destination. -/
theorem binaryOp_of_some {f : Word → Word → Option Word} {dst src : Operand} {s : State} {v : Word}
    (h : f (readOp s dst) (readOp s src) = some v) : binaryOp f dst src s = advance (writeLoc s (resolve s dst) v) := by
  rw [binaryOp, h]

/-- A word is `u16` of its value (R9). -/
theorem eq_u16 {w : Word} {n : Nat} (h : w.toNat = n) : w = u16 n := by
  rw [← h, u16, BitVec.ofNat_toNat, BitVec.setWidth_eq]

/-- The quotient, for a divisor that is not 0 (R194). -/
theorem divResult_of_ne_zero (d : Word) {v : Word} (h : v ≠ 0) : divResult d v = some (u16 (d.toNat / v.toNat)) := by
  rw [divResult, if_neg h, Option.some_inj]
  exact eq_u16 (BitVec.toNat_udiv ..)

/-- The remainder, for a divisor that is not 0 (R195). -/
theorem modResult_of_ne_zero (d : Word) {v : Word} (h : v ≠ 0) :
    modResult d v = some (u16 (d.toNat - v.toNat * (d.toNat / v.toNat))) := by
  rw [modResult, if_neg h, Option.some_inj, ← Nat.mod_eq_sub]
  exact eq_u16 (BitVec.toNat_umod ..)

/-- Settles O42: both are the common form, with no result exactly for a zero divisor. -/
theorem divAndModSkipAZeroDivisor : Obligations.DivAndModSkipAZeroDivisor := by
  intro i n result dst src s hi
  simp only [List.mem_cons, Prod.mk.injEq, List.not_mem_nil, or_false] at hi
  obtain ⟨opcode, f, meaning, byZero, value⟩ : HasOpcode i n ∧ ∃ f : Word → Word → Option Word,
      exec i s = binaryOp f dst src s ∧ (∀ d, f d 0 = none) ∧
        (readOp s src ≠ 0 → f (readOp s dst) (readOp s src) = some (u16 result)) := by
    rcases hi with ⟨rfl, rfl, rfl⟩ | ⟨rfl, rfl, rfl⟩
    · exact ⟨hasOpcode_idxOf (.div dst src), divResult, rfl, fun _ => rfl, divResult_of_ne_zero _⟩
    · exact ⟨hasOpcode_idxOf (.mod dst src), modResult, rfl, fun _ => rfl, modResult_of_ne_zero _⟩
  refine ⟨opcode, ?_⟩
  rw [meaning]
  by_cases zero : readOp s src = 0
  · rw [binaryOp_of_none (by rw [zero, byZero])]
    obtain ⟨t, answers, same, rest, advanced⟩ := advance_after (s := s) rfl rfl
    exact ⟨t, answers, rest, advanced, fun _ => same, fun nonzero => absurd zero nonzero⟩
  · rw [binaryOp_of_some (value zero)]
    obtain ⟨t, answers, stored, rest, advanced⟩ := advance_writeLoc s (resolve s dst) (u16 result)
    exact ⟨t, answers, rest, advanced, fun isZero => absurd isZero zero, fun _ => stored⟩

/-- The two readings of `SHIFT_MODE` agree (R199). -/
theorem shiftCount_eq (m : ShiftMode) (n : Word) : shiftCount m n = modedCount m n.toNat := by cases m <;> rfl

/-- SHL multiplies by a power of two; the rule for counts of 16 or more says what the shift does anyway (R199). -/
theorem shlResult_eq (m : ShiftMode) (d n : Word) :
    shlResult m d n = u16 (d.toNat * 2 ^ modedCount m n.toNat % 65536) := by
  have shifted : shlResult m d n = d <<< modedCount m n.toNat := by
    rw [shlResult, shiftCount_eq]
    split
    · exact (BitVec.shiftLeft_eq_zero ‹_›).symm
    · rfl
  rw [shifted]
  exact eq_u16 (by rw [BitVec.toNat_shiftLeft, Nat.shiftLeft_eq])

/-- SHR divides by a power of two (R200). -/
theorem shrResult_eq (m : ShiftMode) (d n : Word) : shrResult m d n = u16 (d.toNat / 2 ^ modedCount m n.toNat) := by
  have shifted : shrResult m d n = d >>> modedCount m n.toNat := by
    rw [shrResult, shiftCount_eq]
    split
    · exact (BitVec.ushiftRight_eq_zero ‹_›).symm
    · rfl
  rw [shifted]
  exact eq_u16 (by rw [BitVec.toNat_ushiftRight, Nat.shiftRight_eq_div_pow])

/-- Settles O44: both are the common form with the shift under the state's `SHIFT_MODE`. -/
theorem shiftsMultiplyAndDivideByPowersOfTwo : Obligations.ShiftsMultiplyAndDivideByPowersOfTwo := by
  intro i n result dst src s hi
  simp only [List.mem_cons, Prod.mk.injEq, List.not_mem_nil, or_false] at hi
  obtain ⟨opcode, g, meaning, value⟩ : HasOpcode i n ∧ ∃ g : Word → Word → Word,
      exec i s = binaryOp (fun d v => some (g d v)) dst src s ∧ g (readOp s dst) (readOp s src) = u16 result := by
    rcases hi with ⟨rfl, rfl, rfl⟩ | ⟨rfl, rfl, rfl⟩
    · exact ⟨hasOpcode_idxOf (.shl dst src), shlResult s.cfg.shiftMode, rfl, shlResult_eq _ _ _⟩
    · exact ⟨hasOpcode_idxOf (.shr dst src), shrResult s.cfg.shiftMode, rfl, shrResult_eq _ _ _⟩
  rw [meaning, ← value]
  exact ⟨opcode, binaryOp_total g dst src s⟩

/-! ### Compare and test -/

/-- CMP writes the comparison flags and advances (R211). -/
theorem exec_cmp (op1 op2 : Operand) (s : State) :
    exec (.cmp op1 op2) s = advance (s.withFlags (compareFlags s.flags (readOp s op1) (readOp s op2))) := rfl

/-- Exactly one comparison flag is set, since the unsigned order is total (R211). -/
theorem compareFlags_exactly_one (f : Flags) (x y : Word) :
    (compareFlags f x y).less.toNat + (compareFlags f x y).equal.toNat + (compareFlags f x y).greater.toNat = 1 := by
  simp only [compareFlags]
  rcases Nat.lt_trichotomy x.toNat y.toNat with less | equal | greater
  · simp [less, less.ne, less.le]
  · simp [equal]
  · simp [greater, greater.ne', greater.le]

/-- Settles O45, by the flags of CMP and the normal advance. -/
theorem cmpSetsExactlyOneComparisonFlag : Obligations.CmpSetsExactlyOneComparisonFlag := by
  intro op1 op2 s
  refine ⟨hasOpcode_idxOf (.cmp op1 op2), ?_⟩
  rw [exec_cmp]
  obtain ⟨t, answers, store, ⟨cfg, sp, flags, world⟩, advanced⟩ :=
    advance_after (State.withFlags_ip s (compareFlags s.flags (readOp s op1) (readOp s op2))) rfl
  refine ⟨t, answers, store, cfg, sp, world, advanced, ?_⟩
  rw [flags, State.withFlags_flags]
  exact ⟨rfl, decide_eq_true_iff, decide_eq_true_iff, decide_eq_true_iff, compareFlags_exactly_one _ _ _⟩

/-- TEST writes Success and advances (R212). -/
theorem exec_test (op1 op2 : Operand) (s : State) :
    exec (.test op1 op2) s = advance (s.setSuccess (decide (readOp s op1 &&& readOp s op2 = 0))) := rfl

/-- Two words have no bit in common exactly if their AND is 0 (R212). -/
theorem and_eq_zero_iff (x y : Word) :
    x &&& y = 0 ↔ ∀ k : Nat, k < 16 → ¬(x.getLsbD k = true ∧ y.getLsbD k = true) := by
  constructor
  · rintro disjoint k - ⟨inX, inY⟩
    have bit := congrArg (fun w : Word => w.getLsbD k) disjoint
    simp [inX, inY] at bit
  · intro disjoint
    apply BitVec.eq_of_getLsbD_eq
    intro k hk
    simpa using disjoint k hk

/-- Settles O46, by the flag of TEST and the normal advance. -/
theorem testSetsSuccessIfNoBitIsCommon : Obligations.TestSetsSuccessIfNoBitIsCommon := by
  intro op1 op2 s
  refine ⟨hasOpcode_idxOf (.test op1 op2), ?_⟩
  rw [exec_test]
  obtain ⟨t, answers, store, ⟨cfg, sp, flags, world⟩, advanced⟩ :=
    advance_after (State.setSuccess_ip s (decide (readOp s op1 &&& readOp s op2 = 0))) rfl
  refine ⟨t, answers, store, cfg, sp, world, advanced, ?_⟩
  rw [flags, State.setSuccess_flags]
  exact ⟨rfl, rfl, rfl, decide_eq_true_iff.trans (and_eq_zero_iff _ _)⟩

end Sys2Proof.Machine
end

section
/-! The World port (R254 to R263) and the world-touching instructions (45_world.md): what the calls answer, each instruction
as a body followed by the end of the step, then O13, O47 to O53. -/

namespace Sys2Proof.Machine

/-! ### The calls -/

/-- A move the environment has scripted is granted exactly onto the grid, and moves the organism there (R256, R259). -/
theorem askMove_scripted (cfg : Params) (w : WorldPort) (rest : List Answer) (p : Word × Word) (d : BitVec 2) :
    askMove cfg { w with script := .move (some p) :: rest } d =
      if p.1.toNat < cfg.gridWidth ∧ p.2.toNat < cfg.gridHeight
      then (true, { x := p.1, y := p.2, script := rest, log := .attemptMove d true :: w.log })
      else (false, { w with script := rest, log := .attemptMove d false :: w.log }) := by
  have filtered : moveAnswer cfg { w with script := .move (some p) :: rest } d =
      (if p.1.toNat < cfg.gridWidth ∧ p.2.toNat < cfg.gridHeight then some p else none, rest) := by
    simp [moveAnswer, moveWanted, Option.filter, onGrid]
  rw [askMove, filtered]
  by_cases onto : p.1.toNat < cfg.gridWidth ∧ p.2.toNat < cfg.gridHeight
  · rw [if_pos onto, if_pos onto]
    rfl
  · rw [if_neg onto, if_neg onto]
    rfl

/-- A draw that already is below the bound stays as it is (R256). -/
theorem boundedDraw_of_lt {bound v : Word} (nonzero : bound ≠ 0) (below : v.toNat < bound.toNat) :
    boundedDraw bound v = v := by
  rw [boundedDraw, if_neg nonzero]
  exact BitVec.eq_of_toNat_eq ((BitVec.toNat_umod ..).trans (Nat.mod_eq_of_lt below))

/-- A scripted random value is answered within the bound, and used up (R256, R263). -/
theorem askRandom_scripted (w : WorldPort) (rest : List Answer) (bound v : Word) :
    askRandom { w with script := .random v :: rest } bound =
      (boundedDraw bound v, { w with script := rest, log := .nextRandom bound (boundedDraw bound v) :: w.log }) := rfl

/-- Settles O13, call by call, from an answer of the call's own kind at the head of the script. -/
theorem scriptedWorldAnswersAreUsed : Obligations.ScriptedWorldAnswersAreUsed := by
  intro cfg w rest x y e amt bound v d ok dest mutation
  refine ⟨rfl, ?move, rfl, rfl, fun nonzero below => ?random, askRandom_scripted w rest 0 v⟩
  case move =>
    cases dest with
    | none => rfl
    | some p => exact askMove_scripted cfg w rest p d
  case random =>
    rw [askRandom_scripted, boundedDraw_of_lt nonzero below]

/-- Every random answer, scripted or drawn, is bounded (R256). -/
theorem askRandom_bounded (w : WorldPort) (bound : Word) : ∃ v, (askRandom w bound).1 = boundedDraw bound v := by
  simp only [askRandom, randomAnswer]
  split
  · exact ⟨_, rfl⟩
  · exact ⟨_, rfl⟩

/-! ### Mutation (R261) -/

@[simp] theorem applyMutation_cfg (s : State) (m : Option (Word × Word)) : (applyMutation s m).cfg = s.cfg := by
  rw [applyMutation_frame, State.withMem_cfg]
@[simp] theorem applyMutation_regs (s : State) (m : Option (Word × Word)) : (applyMutation s m).regs = s.regs := by
  rw [applyMutation_frame, State.withMem_regs]
@[simp] theorem applyMutation_sp (s : State) (m : Option (Word × Word)) : (applyMutation s m).sp = s.sp := by
  rw [applyMutation_frame, State.withMem_sp]
@[simp] theorem applyMutation_flags (s : State) (m : Option (Word × Word)) : (applyMutation s m).flags = s.flags := by
  rw [applyMutation_frame, State.withMem_flags]
@[simp] theorem applyMutation_world (s : State) (m : Option (Word × Word)) : (applyMutation s m).world = s.world := by
  rw [applyMutation_frame, State.withMem_world]

/-- No mutation, or an immune organism: the memory keeps (R261). -/
theorem applyMutation_keeps {s : State} {m : Option (Word × Word)} (h : m = none ∨ s.cfg.immuneToMutation = true) :
    applyMutation s m = s := by
  rcases h with rfl | immune
  · rfl
  · exact applyMutation_immune m immune

/-- A mutation changes the one word it names, by XOR, if it exists (R261). -/
theorem applyMutation_memRead {s : State} (exposed : s.cfg.immuneToMutation = false) (addr val : Word) (a : Int) :
    (applyMutation s (some (addr, val))).memRead a =
      if a = addr.toNat ∧ InMemory a then s.memRead a ^^^ val else s.memRead a := by
  simp only [applyMutation, mutate, exposed, Bool.false_eq_true, if_false, memRead_memWrite]
  by_cases named : a = addr.toNat
  · subst named
    rfl
  · rw [if_neg fun h => named h.1.symm, if_neg fun h => named h.1]

/-! ### GETXY, ENERGY, SENSE, RAND: a word from the World or the counter, written -/

/-- GETXY writes both coordinates, each at a destination resolved before, then advances (R221). -/
theorem exec_getxy (dst dst2 : Operand) (s : State) : exec (.getxy dst dst2) s =
    advance (writeLoc (writeLoc (s.withWorld (askPosition s.world).2) (resolve s dst) s.world.x) (resolve s dst2)
      s.world.y) := rfl

/-- What GETXY does, with the state between its two writes (R221). -/
theorem exec_getxy_frame (dst dst2 : Operand) (s : State) :
    ∃ m t, exec (.getxy dst dst2) s = .next t ∧
      Stored s m (resolve s dst) s.world.x ∧ Stored m t (resolve s dst2) s.world.y ∧
      t.cfg = s.cfg ∧ t.sp = s.sp ∧ t.flags = s.flags ∧
      t.world = { s.world with log := .position s.world.x s.world.y :: s.world.log } ∧ Advanced s t := by
  obtain ⟨t, answers, same, ⟨cfg, sp, flags, world⟩, advanced⟩ := advance_after (s := s)
    (u := writeLoc (writeLoc (s.withWorld (askPosition s.world).2) (resolve s dst) s.world.x) (resolve s dst2) s.world.y)
    (by simp) (by simp)
  exact ⟨_, t, (exec_getxy dst dst2 s).trans answers, writeLoc_stored (s.withWorld (askPosition s.world).2) _ _,
    (writeLoc_stored _ _ _).of_sameStore same, by simp [cfg], by simp [sp], by simp [flags],
    by simp [world, askPosition_eq], advanced⟩

/-- Settles O47, by the frame of GETXY. -/
theorem getxyWritesThePosition : Obligations.GetxyWritesThePosition :=
  fun dst dst2 s => ⟨hasOpcode_idxOf (.getxy dst dst2), exec_getxy_frame dst dst2 s⟩

/-- ENERGY writes the counter as the step found it, then advances (R222). -/
theorem exec_energy (dst : Operand) (s : State) :
    exec (.energy dst) s = advance (writeLoc s (resolve s dst) s.energy) := rfl

/-- Settles O48, by the rule of a write followed by the normal advance. -/
theorem energyWritesTheCounterBeforeTheCost : Obligations.EnergyWritesTheCounterBeforeTheCost := by
  intro dst s
  refine ⟨hasOpcode_idxOf (.energy dst), ?_⟩
  rw [exec_energy]
  exact advance_writeLoc s (resolve s dst) s.energy

/-- The record after the two calls that look at the cell under the organism (R224, R225, R228). -/
theorem portAfterLook_facts (w : WorldPort) :
    (portAfterLook w).x = w.x ∧ (portAfterLook w).y = w.y ∧
      (portAfterLook w).log = .elementAt w.x w.y (elementUnder w) :: .position w.x w.y :: w.log := ⟨rfl, rfl, rfl⟩

/-- SENSE writes the element under the organism and Success, then advances (R224). -/
theorem exec_sense (dst : Operand) (s : State) : exec (.sense dst) s =
    advance ((writeLoc (s.withWorld (portAfterLook s.world)) (resolve s dst) (elementUnder s.world)).setSuccess
      (decide (elementUnder s.world ≠ 0))) := rfl

/-- Settles O50: the element is written as in the old state, and flag and record are those of the look. -/
theorem senseWritesTheElementCode : Obligations.SenseWritesTheElementCode := by
  intro dst s
  obtain ⟨t, answers, same, ⟨cfg, sp, flags, world⟩, advanced⟩ := advance_after (s := s)
    (u := (writeLoc (s.withWorld (portAfterLook s.world)) (resolve s dst) (elementUnder s.world)).setSuccess
      (decide (elementUnder s.world ≠ 0))) (by simp) (by simp)
  have stored : Stored s t (resolve s dst) (elementUnder s.world) :=
    Stored.of_sameStore (writeLoc_stored (s.withWorld (portAfterLook s.world)) _ _) same
  have port : t.world = portAfterLook s.world := by simp [world]
  obtain ⟨x, y, log⟩ := portAfterLook_facts s.world
  exact ⟨hasOpcode_idxOf (.sense dst), elementUnder s.world, t, (exec_sense dst s).trans answers, rfl, stored,
    by simp [cfg], by simp [sp], port, by rw [port, x], by rw [port, y], by rw [port, log], by simp [flags],
    by simp [flags], by simp [flags], by simp [flags], advanced⟩

/-- RAND writes the World's answer for the bound read in the old state, then advances (R227). -/
theorem exec_rand (dst max : Operand) (s : State) : exec (.rand dst max) s =
    advance (writeLoc (s.withWorld (askRandom s.world (readOp s max)).2) (resolve s dst)
      (askRandom s.world (readOp s max)).1) := rfl

/-- Settles O53: the answer is written as in the old state, and every answer is bounded. -/
theorem randStaysBelowItsBound : Obligations.RandStaysBelowItsBound := by
  intro dst max s
  obtain ⟨t, answers, stored, ⟨cfg, sp, flags, world⟩, advanced⟩ := advance_writeLoc
    (s.withWorld (askRandom s.world (readOp s max)).2) (resolve s dst) (askRandom s.world (readOp s max)).1
  obtain ⟨drawn, bounded⟩ := askRandom_bounded s.world (readOp s max)
  obtain ⟨zero, below⟩ := boundedDraw_bound (readOp s max) drawn
  obtain ⟨-, -, log⟩ := askRandom_port s.world (readOp s max)
  rw [← bounded] at zero below
  exact ⟨hasOpcode_idxOf (.rand dst max), _, _, t, rfl, (exec_rand dst max s).trans answers, stored, zero, below, world,
    (congrArg WorldPort.log world).trans log, cfg, sp, flags, advanced⟩

/-! ### TRAVEL -/

/-- Below 10 energy TRAVEL clears Success and advances (R223). -/
theorem exec_travel_weak {s : State} (weak : s.energy.toNat < 10) (dir : Operand) :
    exec (.travel dir) s = advance (s.setSuccess false) := if_pos weak

/-- The direction asked is the operand modulo 4 (R223). -/
theorem direction_eq (v : Word) : v.setWidth 2 = BitVec.ofNat 2 (v.toNat % 4) := by
  apply BitVec.eq_of_toNat_eq
  simp

/-- From 10 energy on TRAVEL asks the World, writes its answer to Success, and pays for a move (R223). -/
theorem exec_travel_asked {s : State} (strong : 10 ≤ s.energy.toNat) (dir : Operand) {ok : Bool} {world : WorldPort}
    (asked : askMove s.cfg s.world (BitVec.ofNat 2 ((readOp s dir).toNat % 4)) = (ok, world)) :
    exec (.travel dir) s = finish ((s.withWorld world).setSuccess ok) (s.instrAddr + 3) (if ok then 10 else 1) := by
  have body : exec (.travel dir) s = _ := if_neg (Nat.not_lt.2 strong)
  rw [body, direction_eq, asked]

/-- What TRAVEL does from 10 energy on, by the World's answer (R223). -/
theorem exec_travel_asked_frame {s : State} (strong : 10 ≤ s.energy.toNat) (dir : Operand) {ok : Bool} {world : WorldPort}
    (asked : askMove s.cfg s.world (BitVec.ofNat 2 ((readOp s dir).toNat % 4)) = (ok, world)) :
    ∃ t, exec (.travel dir) s = .next t ∧ SameStore s t ∧ t.cfg = s.cfg ∧ t.sp = s.sp ∧ t.world = world ∧
      t.flags = { s.flags with success := ok } ∧ EndsAt s t (s.instrAddr + 3) (if ok then 10 else 1) := by
  obtain ⟨t, answers, store, ⟨cfg, sp, flags, port⟩, ends⟩ :=
    finish_frame ((s.withWorld world).setSuccess ok) (s.instrAddr + 3) (if ok then 10 else 1)
  exact ⟨t, (exec_travel_asked strong dir asked).trans answers, store, cfg, sp, port, flags, ends⟩

/-- Settles O49, by the two sides of 10 energy. -/
theorem travelAsksTheWorldToMove : Obligations.TravelAsksTheWorldToMove := by
  refine fun dir s => ⟨hasOpcode_idxOf (.travel dir), fun strong => ?_, fun weak => ?_⟩
  · obtain ⟨t, frame⟩ := exec_travel_asked_frame strong dir rfl
    exact ⟨_, _, t, rfl, frame⟩
  · rw [exec_travel_weak weak]
    obtain ⟨t, answers, store, ⟨cfg, sp, flags, world⟩, advanced⟩ := advance_after (State.setSuccess_ip s false) rfl
    exact ⟨t, answers, store, cfg, sp, world, flags, advanced⟩

/-! ### RELEASE -/

/-- With more asked than there is, RELEASE clears Success and advances (R226). -/
theorem exec_release_tooMuch {amt : Operand} {s : State} (tooMuch : s.energy.toNat < (readOp s amt).toNat) :
    exec (.release amt) s = advance (s.setSuccess false) := if_neg (Nat.not_le.2 tooMuch)

/-- With enough energy RELEASE asks the World to collect, and gives the amount away if it does (R226). -/
theorem exec_release_asked {amt : Operand} {s : State} (enough : (readOp s amt).toNat ≤ s.energy.toNat) {ok : Bool}
    {world : WorldPort} (asked : askCollect s.world (readOp s amt) = (ok, world)) : exec (.release amt) s =
      advance (((s.withWorld world).withEnergy (s.energy - if ok then readOp s amt else 0)).setSuccess ok) := by
  have body : exec (.release amt) s = _ := if_pos enough
  rw [body, asked]
  cases ok with
  | true => rfl
  | false => simp [State.withEnergy, State.withWorld]

/-- A granted collection adds its amount to the score, a refused one nothing (R226). -/
theorem scoreOf_collect (amt : Word) (ok : Bool) (log : List WorldCall) :
    scoreOf (.collect amt ok :: log) = scoreOf log + if ok then amt.toNat else 0 := by
  cases ok with
  | true => exact Nat.add_comm _ _
  | false => rfl

/-- Settles O52, by the two sides of the energy and the World's answer. -/
theorem releaseDepositsEnergy : Obligations.ReleaseDepositsEnergy := by
  refine fun amt s => ⟨hasOpcode_idxOf (.release amt), fun enough => ?asked, fun tooMuch => ?refused⟩
  case asked =>
    obtain ⟨ok, world, asked⟩ : ∃ ok world, askCollect s.world (readOp s amt) = (ok, world) := ⟨_, _, rfl⟩
    obtain ⟨-, -, log⟩ := askCollect_port s.world (readOp s amt)
    rw [asked] at log
    obtain ⟨t, answers, store, ⟨cfg, sp, flags, port⟩, next, cost⟩ := finish_frame
      (((s.withWorld world).withEnergy (s.energy - if ok then readOp s amt else 0)).setSuccess ok) (s.instrAddr + 3) 1
    refine ⟨ok, world, t, asked, (exec_release_asked enough asked).trans answers, store, cfg, sp, port, flags, next,
      ?_, ?_⟩
    · rw [cost, State.setSuccess_energy, State.withEnergy_energy]
      cases ok with
      | true => simp only [if_true]; bv_omega
      | false => simp
    · have sameLog : t.world.log = world.log := congrArg WorldPort.log port
      rw [sameLog, log, scoreOf_collect]
  case refused =>
    rw [exec_release_tooMuch tooMuch]
    obtain ⟨t, answers, store, ⟨cfg, sp, flags, world⟩, advanced⟩ := advance_after (State.setSuccess_ip s false) rfl
    exact ⟨t, answers, store, cfg, sp, world, flags, advanced⟩

/-! ### EAT -/

/-- Where EAT cannot be done it clears Success and advances, after the two calls of the look (R225). -/
theorem exec_eat_fails {s : State} (fails : EatFails s (elementUnder s.world)) :
    exec .eat s = advance ((s.withWorld (portAfterLook s.world)).setSuccess false) := if_pos fails

/-- Where EAT can be done the World consumes and may mutate, the energy grows, and Success is set (R225). -/
theorem exec_eat_succeeds {s : State} (eats : ¬EatFails s (elementUnder s.world)) {mutation : Option (Word × Word)}
    {world : WorldPort} (asked : askConsume (portAfterLook s.world) (elementUnder s.world) = (mutation, world)) :
    exec .eat s = advance (((applyMutation (s.withWorld world) mutation).withEnergy
      (u16 (s.energy.toNat + 2000))).setSuccess true) := by
  have body : exec .eat s = advance (((applyMutation (s.withWorld
      (askConsume (portAfterLook s.world) (elementUnder s.world)).2)
      (askConsume (portAfterLook s.world) (elementUnder s.world)).1).withEnergy
      (u16 (s.energy.toNat + 2000))).setSuccess true) := if_neg eats
  rw [body, asked]

/-- EAT fails on an empty cell, on a collection point, and where the grant would not fit (R225). -/
theorem eatFails_iff (s : State) (e : Word) : EatFails s e ↔ e = 0 ∨ e = 0xFFFF ∨ 63535 < s.energy.toNat := by
  have room : s.energy.toNat + Config.eatGrant > Config.energyMax ↔ 63535 < s.energy.toNat := by
    simp only [Config.eatGrant, Config.energyMax]
    omega
  rw [EatFails, room]

/-- Where EAT can be done the grant fits into the counter (R225). -/
theorem grant_toNat {s : State} {e : Word} (eats : ¬EatFails s e) :
    (u16 (s.energy.toNat + 2000)).toNat = s.energy.toNat + 2000 := by
  have room : ¬63535 < s.energy.toNat := fun full => eats ((eatFails_iff s e).2 (.inr (.inr full)))
  simp only [u16, BitVec.toNat_ofNat]
  omega

/-- What EAT does where it cannot be done (R225). -/
theorem exec_eat_fails_frame {s : State} (fails : EatFails s (elementUnder s.world)) :
    ∃ t, exec .eat s = .next t ∧ SameStore s t ∧ t.cfg = s.cfg ∧ t.sp = s.sp ∧ t.world = portAfterLook s.world ∧
      t.flags = { s.flags with success := false } ∧ Advanced s t := by
  obtain ⟨t, answers, store, ⟨cfg, sp, flags, world⟩, advanced⟩ :=
    advance_after (s := s) (u := (s.withWorld (portAfterLook s.world)).setSuccess false) rfl rfl
  exact ⟨t, (exec_eat_fails fails).trans answers, store, cfg, sp, world, flags, advanced⟩

/-- What EAT does where it can be done, by the World's answer; the memory is that of the mutation (R225, R261). -/
theorem exec_eat_succeeds_frame {s : State} (eats : ¬EatFails s (elementUnder s.world)) {mutation : Option (Word × Word)}
    {world : WorldPort} (asked : askConsume (portAfterLook s.world) (elementUnder s.world) = (mutation, world)) :
    ∃ t, exec .eat s = .next t ∧ t.world = world ∧ (∀ i : Nat, t.regRead i = s.regRead i) ∧ t.cfg = s.cfg ∧ t.sp = s.sp ∧
      t.flags = { s.flags with success := true } ∧ t.ip = normIp (s.instrAddr + 3) ∧
      t.energy.toNat = s.energy.toNat + 1999 ∧
      ∀ a : Int, t.memRead a = (applyMutation (s.withWorld world) mutation).memRead a := by
  obtain ⟨t, answers, ⟨regs, mem⟩, ⟨cfg, sp, flags, port⟩, next, cost⟩ := advance_body (s := s)
    (u := ((applyMutation (s.withWorld world) mutation).withEnergy (u16 (s.energy.toNat + 2000))).setSuccess true)
    (by simp [applyMutation_ip])
  refine ⟨t, (exec_eat_succeeds eats asked).trans answers, by simp [port], fun i => ?_, by simp [cfg], by simp [sp],
    by simp [flags, Flags.setSuccess], next, ?_, fun a => ?_⟩
  · exact (regs i).trans (regRead_congr (by simp) i)
  · rw [cost, State.setSuccess_energy, State.withEnergy_energy, grant_toNat eats]
    omega
  · exact (mem a).trans (memRead_congr (by simp) a)

/-- Settles O51, by whether EAT can be done; its memory is that of the mutation the World drives. -/
theorem eatGrantsEnergyAndMayMutate : Obligations.EatGrantsEnergyAndMayMutate := by
  refine fun s => ⟨hasOpcode_idxOf .eat, fun fails => ?fails, fun food notCollection room => ?eats⟩
  case fails =>
    obtain ⟨t, answers, store, cfg, sp, world, rest⟩ := exec_eat_fails_frame ((eatFails_iff s _).2 fails)
    obtain ⟨x, y, log⟩ := portAfterLook_facts s.world
    exact ⟨t, answers, store, cfg, sp, world, by rw [world, x], by rw [world, y], by rw [world, log], rest⟩
  case eats =>
    have eats : ¬EatFails s (elementUnder s.world) := by
      simpa [eatFails_iff] using ⟨food, notCollection, room⟩
    obtain ⟨mutation, world, asked⟩ : ∃ mutation world,
        askConsume (portAfterLook s.world) (elementUnder s.world) = (mutation, world) := ⟨_, _, rfl⟩
    obtain ⟨x, y, log⟩ := askConsume_port (portAfterLook s.world) (elementUnder s.world)
    rw [asked] at x y log
    obtain ⟨t, answers, port, regs, cfg, sp, flags, ip, energy, mem⟩ := exec_eat_succeeds_frame eats asked
    refine ⟨mutation, world, t, asked, answers, port, regs, cfg, sp, port ▸ x, port ▸ y, by rw [port, log, List.head?_cons],
      flags, ip, energy, fun keeps a => ?_, fun addr val hm exposed a => ?_⟩
    · rw [mem, applyMutation_keeps (s := s.withWorld world) keeps]
      rfl
    · subst hm
      rw [mem]
      exact applyMutation_memRead (s := s.withWorld world) exposed addr val a

end Sys2Proof.Machine
end

section
/-! What an instruction can do, said once: its body leaves one of the states that `Body` lists, then the step ends (R141,
R142). From it, what each part of the state can become (R21, R26, R27, R29, R35, R56, R228, R255). -/

namespace Sys2Proof.Machine

/-! ### The bodies -/

/-- The instructions that make World calls (R228). -/
def callsWorld : Instr → Bool
  | .getxy _ _ | .travel _ | .sense _ | .eat | .rand _ _ | .release _ => true
  | .nop | .mov _ _ | .push _ | .pop _ | .call _ | .ret | .jmp _ | .jl _ | .jle _ | .jg _ | .jge _ | .je _ | .jne _ => false
  | .js _ | .jns _ | .add _ _ | .sub _ _ | .mult _ _ | .div _ _ | .mod _ _ | .and _ _ | .or _ _ | .xor _ _ => false
  | .cmp _ _ | .test _ _ | .energy _ | .shl _ _ | .shr _ _ | .charge | .poke | .peek | .cksum => false

/-- `Body s i u cost`: in `s` the instruction `i` can leave `u` before the IP update and the energy consumption, which then
takes `cost`. `exec_body` ties it to `exec`. -/
inductive Body (s : State) : Instr → State → Nat → Prop
  | keep {i : Instr} (quiet : callsWorld i = false) : Body s i s 1
  | write {i : Instr} {dst : Operand} (v : Word) (quiet : callsWorld i = false) (named : destinations i = [dst]) :
      Body s i (writeLoc s (resolve s dst) v) 1
  | push {i : Instr} (v : Word) (pushes : ∃ a, i = .push a ∨ i = .call a) : Body s i (stackPush s v) 1
  | pop (dst : Operand) : Body s (.pop dst) (writeLoc (stackDrop s) (resolve s dst) (s.memRead s.sp.toNat)) 1
  | ret : Body s .ret (stackDrop s) 1
  | cmp (a b : Operand) : Body s (.cmp a b) (s.withFlags (compareFlags s.flags (readOp s a) (readOp s b))) 1
  | test (a b : Operand) : Body s (.test a b) (s.setSuccess (decide (readOp s a &&& readOp s b = 0))) 1
  | getxy (dst dst2 : Operand) : Body s (.getxy dst dst2)
      (writeLoc (writeLoc (s.withWorld (askPosition s.world).2) (resolve s dst) s.world.x) (resolve s dst2) s.world.y) 1
  | sense (dst : Operand) : Body s (.sense dst)
      ((writeLoc (s.withWorld (portAfterLook s.world)) (resolve s dst) (elementUnder s.world)).setSuccess
        (decide (elementUnder s.world ≠ 0))) 1
  | rand (dst max : Operand) : Body s (.rand dst max) (writeLoc (s.withWorld (askRandom s.world (readOp s max)).2)
      (resolve s dst) (askRandom s.world (readOp s max)).1) 1
  | travelWeak (dir : Operand) (weak : s.energy.toNat < 10) : Body s (.travel dir) (s.setSuccess false) 1
  | travelAsked {dir : Operand} {ok : Bool} {world : WorldPort} (strong : 10 ≤ s.energy.toNat)
      (asked : askMove s.cfg s.world (BitVec.ofNat 2 ((readOp s dir).toNat % 4)) = (ok, world)) :
      Body s (.travel dir) ((s.withWorld world).setSuccess ok) (if ok then 10 else 1)
  | releaseTooMuch {amt : Operand} (tooMuch : s.energy.toNat < (readOp s amt).toNat) :
      Body s (.release amt) (s.setSuccess false) 1
  | releaseAsked {amt : Operand} {ok : Bool} {world : WorldPort} (enough : (readOp s amt).toNat ≤ s.energy.toNat)
      (asked : askCollect s.world (readOp s amt) = (ok, world)) : Body s (.release amt)
      (((s.withWorld world).withEnergy (s.energy - if ok then readOp s amt else 0)).setSuccess ok) 1
  | eatFails (fails : EatFails s (elementUnder s.world)) :
      Body s .eat ((s.withWorld (portAfterLook s.world)).setSuccess false) 1
  | eatSucceeds {mutation : Option (Word × Word)} {world : WorldPort} (eats : ¬EatFails s (elementUnder s.world))
      (asked : askConsume (portAfterLook s.world) (elementUnder s.world) = (mutation, world)) : Body s .eat
      (((applyMutation (s.withWorld world) mutation).withEnergy (u16 (s.energy.toNat + 2000))).setSuccess true) 1

/-- The common form of R190 writes its destination or nothing. -/
theorem binaryOp_body {i : Instr} {f : Word → Word → Option Word} {dst src : Operand} {s t : State}
    (quiet : callsWorld i = false) (named : destinations i = [dst]) (h : binaryOp f dst src s = .next t) :
    ∃ u next cost, Body s i u cost ∧ finish u next cost = .next t := by
  obtain ⟨v, -, written⟩ | ⟨-, skipped⟩ := binaryOp_cases h
  · exact ⟨_, _, _, .write v quiet named, written⟩
  · exact ⟨_, _, _, .keep quiet, skipped⟩

/-- Every instruction is one of its bodies, then the end of the step. -/
theorem exec_body {i : Instr} {s t : State} (h : exec i s = .next t) :
    ∃ u next cost, Body s i u cost ∧ finish u next cost = .next t := by
  cases i with
  | nop | charge | poke | peek | cksum | jmp | jl | jle | jg | jge | je | jne | js | jns => exact ⟨_, _, _, .keep rfl, h⟩
  | mov | energy => exact ⟨_, _, _, .write _ rfl rfl, h⟩
  | push src => exact ⟨_, _, _, .push _ ⟨src, .inl rfl⟩, h⟩
  | call addr => exact ⟨_, _, _, .push _ ⟨addr, .inr rfl⟩, h⟩
  | pop dst => exact ⟨_, _, _, .pop dst, h⟩
  | ret => exact ⟨_, _, _, .ret, h⟩
  | add | sub | mult | div | mod | and | or | xor | shl | shr =>
    rw [exec] at h
    exact binaryOp_body rfl rfl h
  | cmp a b => exact ⟨_, _, _, .cmp a b, h⟩
  | test a b => exact ⟨_, _, _, .test a b, h⟩
  | getxy dst dst2 => exact ⟨_, _, _, .getxy dst dst2, h⟩
  | sense dst => exact ⟨_, _, _, .sense dst, h⟩
  | rand dst max => exact ⟨_, _, _, .rand dst max, h⟩
  | travel dir =>
    by_cases weak : s.energy.toNat < 10
    · exact ⟨_, _, _, .travelWeak dir weak, (exec_travel_weak weak dir).symm.trans h⟩
    · have strong := Nat.le_of_not_lt weak
      exact ⟨_, _, _, .travelAsked strong rfl, (exec_travel_asked strong dir rfl).symm.trans h⟩
  | release amt =>
    by_cases enough : (readOp s amt).toNat ≤ s.energy.toNat
    · exact ⟨_, _, _, .releaseAsked enough rfl, (exec_release_asked enough rfl).symm.trans h⟩
    · have tooMuch := Nat.lt_of_not_le enough
      exact ⟨_, _, _, .releaseTooMuch tooMuch, (exec_release_tooMuch tooMuch).symm.trans h⟩
  | eat =>
    by_cases fails : EatFails s (elementUnder s.world)
    · exact ⟨_, _, _, .eatFails fails, (exec_eat_fails fails).symm.trans h⟩
    · exact ⟨_, _, _, .eatSucceeds fails rfl, (exec_eat_succeeds fails rfl).symm.trans h⟩

/-- What the end of the step keeps of the body's state, and what it writes (R141, R142). -/
theorem of_finish {u t : State} {next cost : Nat} (h : finish u next cost = .next t) :
    t.regs = u.regs ∧ t.mem = u.mem ∧ KeepsTheRest u t ∧ EndsAt u t next cost := by
  rw [finish_eq] at h
  cases h
  exact ⟨rfl, rfl, ⟨rfl, rfl, rfl, rfl⟩, rfl, energy_after_cost u.energy cost⟩

/-! ### Configuration, memory form, stack pointer -/

section

variable {s u : State} {i : Instr} {cost : Nat}

/-- No body touches the configuration (R32). -/
theorem Body.cfg (body : Body s i u cost) : u.cfg = s.cfg := by
  cases body <;> simp

/-- Every body keeps the memory's canonical form. -/
theorem Body.mem_wf (body : Body s i u cost) (wf : Memory.wf s.mem = true) : Memory.wf u.mem = true := by
  cases body with
  | keep | ret | cmp | test | travelWeak | travelAsked | releaseTooMuch | releaseAsked | eatFails => exact wf
  | write v => exact writeLoc_wf _ v wf
  | push v => exact stackPush_wf v wf
  | pop => exact writeLoc_wf (s := stackDrop s) _ _ wf
  | getxy => exact writeLoc_wf _ _ (writeLoc_wf (s := s.withWorld _) _ _ wf)
  | sense => exact writeLoc_wf (s := s.withWorld _) _ _ wf
  | rand => exact writeLoc_wf (s := s.withWorld _) _ _ wf
  | eatSucceeds =>
    rw [State.setSuccess_mem, State.withEnergy_mem]
    exact applyMutation_wf (s := s.withWorld _) _ wf

/-- A body moves `sp` only by a push or a pop (R26, R165). -/
theorem Body.sp (body : Body s i u cost) :
    u.sp = s.sp ∨
    ((∃ a, i = .push a ∨ i = .call a) ∧ u.sp.toNat = if s.sp = 0 then 3600 else s.sp.toNat - 1) ∨
    (((∃ a, i = .pop a) ∨ i = .ret) ∧ u.sp.toNat = if 3600 ≤ s.sp.toNat then 3600 else s.sp.toNat + 1) := by
  cases body with
  | push v pushes => exact .inr (.inl ⟨pushes, stackPush_sp_toNat s v⟩)
  | pop dst => exact .inr (.inr ⟨.inl ⟨dst, rfl⟩, by rw [writeLoc_sp, stackDrop_sp_toNat]⟩)
  | ret => exact .inr (.inr ⟨.inr rfl, stackDrop_sp_toNat s⟩)
  | keep | write | cmp | test | getxy | sense | rand | travelWeak | travelAsked | releaseTooMuch | releaseAsked | eatFails
  | eatSucceeds => exact .inl (by simp)

/-- A stack pointer within its range stays there (R35). -/
theorem Body.sp_le (body : Body s i u cost) (bound : s.sp.toNat ≤ 3600) : u.sp.toNat ≤ 3600 := by
  obtain same | ⟨-, moved⟩ | ⟨-, moved⟩ := body.sp
  · rwa [same]
  · rw [moved]
    split <;> omega
  · rw [moved]
    split <;> omega

/-! ### Flags (R27) -/

/-- Only CMP's body writes Less, Equal, Greater. -/
theorem Body.comparison (body : Body s i u cost) :
    (u.flags.less = s.flags.less ∧ u.flags.equal = s.flags.equal ∧ u.flags.greater = s.flags.greater) ∨
      ∃ a b, i = .cmp a b := by
  cases body with
  | cmp a b => exact .inr ⟨a, b, rfl⟩
  | keep | write | push | pop | ret | test | getxy | sense | rand | travelWeak | travelAsked | releaseTooMuch
  | releaseAsked | eatFails | eatSucceeds => exact .inl (by simp)

/-- Only five instructions' bodies write Success. -/
theorem Body.success (body : Body s i u cost) :
    u.flags.success = s.flags.success ∨
      (∃ a b, i = .test a b) ∨ (∃ a, i = .travel a ∨ i = .sense a ∨ i = .release a) ∨ i = .eat := by
  cases body with
  | test a b => exact .inr (.inl ⟨a, b, rfl⟩)
  | travelWeak a | @travelAsked a => exact .inr (.inr (.inl ⟨a, .inl rfl⟩))
  | sense a => exact .inr (.inr (.inl ⟨a, .inr (.inl rfl)⟩))
  | @releaseTooMuch a | @releaseAsked a => exact .inr (.inr (.inl ⟨a, .inr (.inr rfl)⟩))
  | eatFails | eatSucceeds => exact .inr (.inr (.inr rfl))
  | cmp => exact .inl rfl
  | keep | write | push | pop | ret | getxy | rand => exact .inl (by simp)

/-! ### Registers and memory words (R21, R56) -/

/-- A register that a stored word changes is the one resolved. -/
theorem Stored.regRead_cases {t : State} {l : Loc} {v : Word} (stored : Stored s t l v) (k : Nat) :
    t.regRead k = s.regRead k ∨ l = .reg k := by
  obtain ⟨regs, -⟩ := stored
  rw [regs]
  split
  · exact .inr (And.left ‹_›)
  · exact .inl rfl

/-- A memory word that a stored word changes is the one resolved. -/
theorem Stored.memRead_cases {t : State} {l : Loc} {v : Word} (stored : Stored s t l v) (a : Int) :
    t.memRead a = s.memRead a ∨ l = .mem a := by
  obtain ⟨-, mem⟩ := stored
  rw [mem]
  split
  · exact .inr (And.left ‹_›)
  · exact .inl rfl

/-- The mutation that EAT's body may have applied: the one of the consume call that heads the record. -/
def MutatedAt (s u : State) (a : Int) : Prop :=
  s.cfg.immuneToMutation = false ∧ u.flags.success = true ∧
    ∃ e addr val : Word, u.world.log.head? = some (.consume e (some (addr, val))) ∧ a = addr.toNat

/-- Where EAT succeeds, a memory word changes only by the mutation on record (R261). -/
theorem eatSucceeds_memRead {mutation : Option (Word × Word)} {world : WorldPort}
    (asked : askConsume (portAfterLook s.world) (elementUnder s.world) = (mutation, world)) (e : Word) (a : Int) :
    let u := ((applyMutation (s.withWorld world) mutation).withEnergy e).setSuccess true
    u.memRead a = s.memRead a ∨ MutatedAt s u a := by
  intro u
  have log : u.world.log.head? = some (.consume (elementUnder s.world) mutation) := by
    obtain ⟨-, -, recorded⟩ := askConsume_port (portAfterLook s.world) (elementUnder s.world)
    rw [asked] at recorded
    have head : world.log.head? = _ := congrArg List.head? recorded
    simpa [u] using head
  have mem : u.memRead a = (applyMutation (s.withWorld world) mutation).memRead a := memRead_congr (by simp [u]) a
  rw [mem]
  by_cases keeps : mutation = none ∨ s.cfg.immuneToMutation = true
  · rw [applyMutation_keeps (s := s.withWorld world) keeps]
    exact .inl rfl
  · obtain ⟨mutates, immune⟩ := not_or.1 keeps
    obtain ⟨⟨addr, val⟩, rfl⟩ := Option.ne_none_iff_exists'.1 mutates
    have exposed := Bool.not_eq_true _ ▸ immune
    rw [applyMutation_memRead (s := s.withWorld world) exposed]
    by_cases named : a = addr.toNat
    · exact .inr ⟨exposed, rfl, elementUnder s.world, addr, val, log, named⟩
    · rw [if_neg fun h => named h.1]
      exact .inl rfl

/-- What a body can do to registers and memory: write its one destination; or its two, in order; or keep the registers, and
change a memory word by a push or by a mutation only. -/
theorem Body.store (body : Body s i u cost) :
    (∃ dst v, destinations i = [dst] ∧ Stored s u (resolve s dst) v) ∨
    (∃ dst dst2 m v v2, destinations i = [dst, dst2] ∧ Stored s m (resolve s dst) v ∧ Stored m u (resolve s dst2) v2) ∨
    (u.regs = s.regs ∧ ∀ a, u.memRead a = s.memRead a ∨
      ((∃ o, i = .push o ∨ i = .call o) ∧ a = u.sp.toNat) ∨ (i = .eat ∧ MutatedAt s u a)) := by
  cases body with
  | @write _ dst v _ named => exact .inl ⟨dst, v, named, writeLoc_stored s _ v⟩
  | pop dst => exact .inl ⟨dst, _, rfl, writeLoc_stored (stackDrop s) _ _⟩
  | sense dst => exact .inl ⟨dst, _, rfl, writeLoc_stored (s.withWorld (portAfterLook s.world)) _ _⟩
  | rand dst max => exact .inl ⟨dst, _, rfl, writeLoc_stored (s.withWorld (askRandom s.world (readOp s max)).2) _ _⟩
  | getxy dst dst2 =>
    exact .inr (.inl ⟨dst, dst2, _, _, _, rfl, writeLoc_stored (s.withWorld (askPosition s.world).2) _ _,
      writeLoc_stored _ _ _⟩)
  | push v pushes =>
    refine .inr (.inr ⟨stackPush_regs s v, fun a => ?_⟩)
    by_cases top : a = (stackPush s v).sp.toNat
    · exact .inr (.inl ⟨pushes, top⟩)
    · rw [stackPush_memRead, if_neg fun h => top h.1.symm]
      exact .inl rfl
  | eatSucceeds _ asked =>
    exact .inr (.inr ⟨by simp, fun a => (eatSucceeds_memRead asked _ a).imp_right fun at_ => .inr ⟨rfl, at_⟩⟩)
  | keep | ret | cmp | test | travelWeak | travelAsked | releaseTooMuch | releaseAsked | eatFails =>
    exact .inr (.inr ⟨by simp, fun a => .inl (memRead_congr (by simp) a)⟩)

/-- A body changes a register only where a written operand resolves to it. -/
theorem Body.regRead (body : Body s i u cost) (k : Nat) :
    u.regRead k = s.regRead k ∨ ∃ o ∈ destinations i, resolve s o = .reg k := by
  obtain ⟨dst, v, named, stored⟩ | ⟨dst, dst2, m, v, v2, named, first, second⟩ | ⟨regs, -⟩ := body.store
  · simpa [named] using stored.regRead_cases k
  · rcases second.regRead_cases k with same2 | at2
    · simpa [named, same2] using (first.regRead_cases k).imp_right .inl
    · exact .inr ⟨dst2, by simp [named], at2⟩
  · exact .inl (regRead_congr regs k)

/-- A body changes a memory word only where a written operand resolves to it, at the new top of the stack, or by the
mutation inside an EAT. -/
theorem Body.memRead (body : Body s i u cost) (a : Int) :
    u.memRead a = s.memRead a ∨ (∃ o ∈ destinations i, resolve s o = .mem a) ∨
      ((∃ o, i = .push o ∨ i = .call o) ∧ a = u.sp.toNat) ∨ (i = .eat ∧ MutatedAt s u a) := by
  obtain ⟨dst, v, named, stored⟩ | ⟨dst, dst2, m, v, v2, named, first, second⟩ | ⟨-, mem⟩ := body.store
  · exact (stored.memRead_cases a).imp_right fun at_ => .inl ⟨dst, by simp [named], at_⟩
  · rcases second.memRead_cases a with same2 | at2
    · rw [same2]
      exact (first.memRead_cases a).imp_right fun at1 => .inl ⟨dst, by simp [named], at1⟩
    · exact .inr (.inl ⟨dst2, by simp [named], at2⟩)
  · exact (mem a).imp_right .inr

/-! ### The World and the energy (R228, R255, R29) -/

/-- An instruction without World calls leaves the World port as it is. -/
theorem Body.world_of_quiet (body : Body s i u cost) (quiet : callsWorld i = false) : u.world = s.world := by
  cases body with
  | getxy | sense | rand | travelWeak | travelAsked | releaseTooMuch | releaseAsked | eatFails | eatSucceeds => cases quiet
  | keep | write | push | pop | ret | cmp | test => simp

/-- The position stays, unless a TRAVEL succeeds; then it is on the grid (R256, R259). -/
theorem Body.position (body : Body s i u cost) :
    (u.world.x = s.world.x ∧ u.world.y = s.world.y) ∨
      ((∃ dir, i = .travel dir) ∧ u.flags.success = true ∧ onGrid s.cfg u.world.x u.world.y = true) := by
  cases body with
  | @travelAsked dir ok world strong asked =>
    obtain ⟨-, granted, refused⟩ := askMove_port s.cfg s.world (BitVec.ofNat 2 ((readOp s dir).toNat % 4))
    rw [asked] at granted refused
    cases ok with
    | true => exact .inr ⟨⟨dir, rfl⟩, rfl, granted rfl⟩
    | false => exact .inl (refused rfl)
  | @releaseAsked amt ok world enough asked =>
    obtain ⟨x, y, -⟩ := askCollect_port s.world (readOp s amt)
    rw [asked] at x y
    exact .inl ⟨x, y⟩
  | @eatSucceeds mutation world eats asked =>
    obtain ⟨x, y, -⟩ := askConsume_port (portAfterLook s.world) (elementUnder s.world)
    rw [asked] at x y
    exact .inl ⟨by simpa [portAfterLook_facts] using x, by simpa [portAfterLook_facts] using y⟩
  | sense => exact .inl (by simp [portAfterLook_facts])
  | rand => exact .inl (by simp [askRandom_port])
  | getxy => exact .inl (by simp [askPosition_eq])
  | eatFails => exact .inl ⟨rfl, rfl⟩
  | keep | write | push | pop | ret | cmp | test | travelWeak | releaseTooMuch => exact .inl (by simp)

/-- The organism stays on the grid (R6, R256). -/
theorem Body.onGrid (body : Body s i u cost) (grid : s.OnGrid) : u.OnGrid := by
  rw [State.OnGrid, body.cfg]
  obtain ⟨x, y⟩ | ⟨-, -, moved⟩ := body.position
  · rwa [x, y]
  · simpa [Machine.onGrid] using moved

/-- A body keeps the energy, at cost 1 or 10; or it is a RELEASE, which lowers it; or an EAT that succeeds, which grants 2000
(R142, R225, R226). -/
theorem Body.energy (body : Body s i u cost) :
    (u.energy = s.energy ∧ 1 ≤ cost ∧ cost ≤ 10) ∨
    ((∃ amt, i = .release amt) ∧ u.energy.toNat ≤ s.energy.toNat ∧ cost = 1) ∨
    (i = .eat ∧ u.flags.success = true ∧ u.energy.toNat = s.energy.toNat + 2000 ∧ cost = 1) := by
  cases body with
  | @travelAsked dir ok => exact .inl ⟨rfl, by cases ok <;> decide⟩
  | @releaseAsked amt ok world enough =>
    refine .inr (.inl ⟨⟨amt, rfl⟩, ?_, rfl⟩)
    rw [State.setSuccess_energy, State.withEnergy_energy]
    cases ok with
    | true => simp only [if_true]; bv_omega
    | false => simp
  | eatSucceeds eats =>
    refine .inr (.inr ⟨rfl, rfl, ?_, rfl⟩)
    rw [State.setSuccess_energy, State.withEnergy_energy, grant_toNat eats]
  | keep | write | push | pop | ret | cmp | test | getxy | sense | rand | travelWeak | releaseTooMuch | eatFails =>
    exact .inl (by simp)

end

end Sys2Proof.Machine
end

section
/-! The whole-machine rules from the bodies: what every instruction and every tick keeps (R21, R26, R27, R29, R35, R56,
R228, R255), O19, O23 to O30 and O54. -/

namespace Sys2Proof.Machine

/-- An instruction answers one state. -/
theorem next_unique {r : Result} {t t' : State} (h : r = .next t) (h' : r = .next t') : t' = t := by
  cases h.symm.trans h'
  rfl

/-- A tick of a core with energy executes the instruction fetched, or NOP where none is (R133, R143, R245). -/
theorem step_executes {s t : State} (live : s.energy ≠ 0) (h : step s = .next t) :
    ∃ i, exec i s = .next t ∧ (fetchInstr s = .ok i ∨ i = .nop) := by
  obtain ⟨frozen, -⟩ | ⟨-, i, fetched, executed⟩ | ⟨-, r, -, executed⟩ := step_cases h
  · exact absurd frozen live
  · exact ⟨i, executed, .inl fetched⟩
  · exact ⟨.nop, executed, .inr rfl⟩

/-! ### The invariant (R35) -/

/-- The end of a step leaves `ip` a multiple of 3 up to 3597 (R24, R141). -/
theorem normIp_aligned (v : Nat) : (normIp v).toNat % 3 = 0 ∧ (normIp v).toNat ≤ 3597 := by
  have aligned := normIp_mod_three v
  have below := normIp_lt v
  omega

/-- No instruction leaves the grid (R256). -/
theorem onGrid_of_exec {i : Instr} {s t : State} (grid : s.OnGrid) (h : exec i s = .next t) : t.OnGrid := by
  obtain ⟨u, next, cost, body, ended⟩ := exec_body h
  obtain ⟨-, -, ⟨cfg, -, -, world⟩, -⟩ := of_finish ended
  rw [State.OnGrid, cfg, world]
  exact body.onGrid grid

/-- Every instruction keeps the invariant (R35). -/
theorem inv_of_exec {i : Instr} {s t : State} (inv : s.Inv) (h : exec i s = .next t) : t.Inv := by
  obtain ⟨-, -, spBound, memWf, cfgWf, grid⟩ := inv
  obtain ⟨u, next, cost, body, ended⟩ := exec_body h
  obtain ⟨-, mem, ⟨cfg, sp, -, -⟩, ip, -⟩ := of_finish ended
  obtain ⟨aligned, upTo⟩ := normIp_aligned next
  refine ⟨ip ▸ aligned, ip ▸ upTo, ?_, ?_, ?_, onGrid_of_exec grid h⟩
  · rw [sp]
    exact body.sp_le spBound
  · rw [mem]
    exact body.mem_wf memWf
  · rwa [cfg, body.cfg]

/-- Settles O19: a frozen core stays as it is, a live one executes an instruction. -/
theorem everyStepKeepsTheInvariant : Obligations.EveryStepKeepsTheInvariant := by
  intro s t inv h
  by_cases frozen : s.Frozen
  · rw [next_unique (step_frozen frozen) h]
    exact inv
  · obtain ⟨i, executed, -⟩ := step_executes frozen h
    exact inv_of_exec inv executed

/-! ### Flags, stack pointer, registers, memory words, position -/

/-- Settles O23, by the bodies that write a flag. -/
theorem onlyNamedInstructionsWriteFlags : Obligations.OnlyNamedInstructionsWriteFlags := by
  intro i s t h
  obtain ⟨u, next, cost, body, ended⟩ := exec_body h
  obtain ⟨-, -, ⟨-, -, flags, -⟩, -⟩ := of_finish ended
  rw [flags]
  refine ⟨fun changed => ?_, fun changed => body.success.resolve_left changed⟩
  obtain ⟨less, equal, greater⟩ | isCmp := body.comparison
  · simp [less, equal, greater] at changed
  · exact isCmp

/-- Settles O24, by the bodies that move `sp`. -/
theorem onlyStackInstructionsMoveTheStackPointer : Obligations.OnlyStackInstructionsMoveTheStackPointer := by
  intro i s t h moved
  obtain ⟨u, next, cost, body, ended⟩ := exec_body h
  obtain ⟨-, -, ⟨-, sp, -, -⟩, -⟩ := of_finish ended
  rw [sp] at moved ⊢
  exact body.sp.resolve_left moved

/-- A destination that resolves to a register is a Register operand with its index (R138). -/
theorem register_of_resolve {s : State} {o : Operand} {k : Nat} (h : resolve s o = .reg k) :
    ∃ v : Word, v.toNat = k ∧ o = .register v := by
  cases o with
  | register v => exact ⟨v, Loc.reg.inj h, rfl⟩
  | direct | immediate | indexed => cases h

/-- Settles O25: a register changes only where a written operand resolves to it. -/
theorem registersChangeOnlyWhereNamed : Obligations.RegistersChangeOnlyWhereNamed := by
  intro i s t k h changed
  obtain ⟨u, next, cost, body, ended⟩ := exec_body h
  obtain ⟨regs, -⟩ := of_finish ended
  rw [regRead_congr regs] at changed
  obtain ⟨o, written, resolved⟩ := (body.regRead k).resolve_left changed
  obtain ⟨v, index, rfl⟩ := register_of_resolve resolved
  exact ⟨v, index, written⟩

/-- Settles O26, by the bodies that change a memory word. -/
theorem memoryChangesOnlyByStoresPushesAndMutation : Obligations.MemoryChangesOnlyByStoresPushesAndMutation := by
  intro i s t a h changed
  obtain ⟨u, next, cost, body, ended⟩ := exec_body h
  obtain ⟨-, mem, ⟨-, sp, flags, world⟩, -⟩ := of_finish ended
  rw [memRead_congr mem] at changed
  rw [sp, flags, world]
  exact (body.memRead a).resolve_left changed

/-- Settles O28, by the one body that moves the organism. -/
theorem positionChangesOnlyByATravelThatSucceeds : Obligations.PositionChangesOnlyByATravelThatSucceeds := by
  intro i s t h moved
  obtain ⟨u, next, cost, body, ended⟩ := exec_body h
  obtain ⟨-, -, ⟨-, -, flags, world⟩, -⟩ := of_finish ended
  rw [world] at moved
  rw [flags]
  obtain ⟨x, y⟩ | ⟨isTravel, success, -⟩ := body.position
  · simp [x, y] at moved
  · exact ⟨isTravel, success⟩

/-! ### World calls (R228) -/

/-- An instruction without World calls leaves the port, its record among it, as it is. -/
theorem world_of_exec_quiet {i : Instr} {s t : State} (quiet : callsWorld i = false) (h : exec i s = .next t) :
    t.world = s.world := by
  obtain ⟨u, next, cost, body, ended⟩ := exec_body h
  obtain ⟨-, -, ⟨-, -, -, world⟩, -⟩ := of_finish ended
  rw [world, body.world_of_quiet quiet]

/-- The direction asked, written either way (R223). -/
theorem direction_mod (v : Word) : BitVec.ofNat 2 (v.toNat % 4) = BitVec.ofNat 2 v.toNat := by
  apply BitVec.eq_of_toNat_eq
  simp

/-- TRAVEL's calls (R228). -/
theorem log_of_travel {dir : Operand} {s t : State} (h : exec (.travel dir) s = .next t) :
    if s.energy.toNat < 10 then t.world.log = s.world.log
    else t.world.log = .attemptMove (BitVec.ofNat 2 (readOp s dir).toNat) t.flags.success :: s.world.log := by
  obtain ⟨-, strongCase, weakCase⟩ := travelAsksTheWorldToMove dir s
  split
  · obtain ⟨t', answers, -, -, -, world, -⟩ := weakCase ‹_›
    rw [next_unique answers h, world]
  · obtain ⟨ok, world, t', asked, answers, -, -, -, port, flags, -⟩ := strongCase (by omega)
    obtain ⟨log, -⟩ := askMove_port s.cfg s.world (BitVec.ofNat 2 ((readOp s dir).toNat % 4))
    rw [asked] at log
    rw [next_unique answers h, port, flags, log, direction_mod]

/-- RELEASE's calls (R228). -/
theorem log_of_release {amt : Operand} {s t : State} (h : exec (.release amt) s = .next t) :
    if (readOp s amt).toNat ≤ s.energy.toNat then
      t.world.log = .collect (readOp s amt) t.flags.success :: s.world.log
    else t.world.log = s.world.log := by
  obtain ⟨-, enoughCase, tooMuchCase⟩ := releaseDepositsEnergy amt s
  split
  · obtain ⟨ok, world, t', asked, answers, -, -, -, port, flags, -⟩ := enoughCase ‹_›
    obtain ⟨-, -, log⟩ := askCollect_port s.world (readOp s amt)
    rw [asked] at log
    rw [next_unique answers h, port, flags, log]
  · obtain ⟨t', answers, -, -, -, world, -⟩ := tooMuchCase (by omega)
    rw [next_unique answers h, world]

/-- EAT's calls: the look, and the consume exactly on success (R228). -/
theorem log_of_eat {s t : State} (h : exec .eat s = .next t) :
    (t.flags.success = false ∧ t.world.log = .elementAt s.world.x s.world.y (elementUnder s.world) ::
      .position s.world.x s.world.y :: s.world.log) ∨
    (t.flags.success = true ∧ ∃ mutation, t.world.log = .consume (elementUnder s.world) mutation ::
      .elementAt s.world.x s.world.y (elementUnder s.world) :: .position s.world.x s.world.y :: s.world.log) := by
  obtain ⟨-, -, look⟩ := portAfterLook_facts s.world
  by_cases fails : EatFails s (elementUnder s.world)
  · obtain ⟨t', answers, -, -, -, world, flags, -⟩ := exec_eat_fails_frame fails
    rw [next_unique answers h, flags, world]
    exact .inl ⟨rfl, look⟩
  · obtain ⟨mutation, world, asked⟩ : ∃ mutation world,
        askConsume (portAfterLook s.world) (elementUnder s.world) = (mutation, world) := ⟨_, _, rfl⟩
    obtain ⟨-, -, log⟩ := askConsume_port (portAfterLook s.world) (elementUnder s.world)
    rw [asked, look] at log
    obtain ⟨t', answers, port, -, -, -, flags, -⟩ := exec_eat_succeeds_frame fails asked
    rw [next_unique answers h, flags, port]
    exact .inr ⟨rfl, mutation, log⟩

/-- Settles O27: the six instructions that call the World, by what they record; the others by their bodies. -/
theorem worldCallsPerInstruction : Obligations.WorldCallsPerInstruction := by
  intro i s t h
  cases i with
  | getxy dst dst2 =>
    obtain ⟨-, m, t', answers, -, -, -, -, -, world, -⟩ := getxyWritesThePosition dst dst2 s
    simp only [next_unique answers h, world]
  | travel dir => exact log_of_travel h
  | sense dst =>
    obtain ⟨-, e, t', answers, -, -, -, -, -, -, -, log, -⟩ := senseWritesTheElementCode dst s
    exact ⟨e, by rw [next_unique answers h, log]⟩
  | eat => exact ⟨_, log_of_eat h⟩
  | release amt => exact log_of_release h
  | rand dst max =>
    obtain ⟨-, v, world, t', -, answers, -, -, -, -, log, -⟩ := randStaysBelowItsBound dst max s
    exact ⟨v, by rw [next_unique answers h, log]⟩
  | nop | mov | push | pop | call | ret | jmp | jl | jle | jg | jge | je | jne | js | jns | add | sub | mult | div | mod | and
  | or | xor | cmp | test | energy | shl | shr | charge | poke | peek | cksum => exact world_of_exec_quiet rfl h

/-! ### Energy (R29, R146) -/

/-- Settles O29, by the bodies' energy and cost. -/
theorem energyFallsUnlessTheCoreEats : Obligations.EnergyFallsUnlessTheCoreEats := by
  intro s t live h
  obtain ⟨i, executed, fetched⟩ := step_executes live h
  obtain ⟨u, next, cost, body, ended⟩ := exec_body executed
  obtain ⟨-, -, ⟨-, -, flags, -⟩, -, spent⟩ := of_finish ended
  have positive : s.energy.toNat ≠ 0 := fun zero => live (BitVec.eq_of_toNat_eq zero)
  obtain ⟨same, atLeast, atMost⟩ | ⟨⟨amt, rfl⟩, lower, rfl⟩ | ⟨rfl, success, granted, rfl⟩ := body.energy
  · rw [same] at spent
    exact .inl ⟨by omega, fun _ => by omega⟩
  · have isRelease : fetchInstr s = .ok (.release amt) := fetched.resolve_right nofun
    exact .inl ⟨by omega, fun other => absurd isRelease (other amt)⟩
  · exact .inr ⟨fetched.resolve_right nofun, by rw [flags, success], by omega⟩

/-- A core whose EATs all fail for `n` ticks is frozen after them, if it has at most `n` energy: by induction on `n`, each
tick takes one energy or finds it frozen. -/
theorem frozen_after (n : Nat) (s : State) (bound : s.energy.toNat ≤ n)
    (noMeal : ∀ k : Nat, k < n → ∀ u t : State, Host.Core.run Sys2Proof.core k s = .next u → step u = .next t →
      u.energy ≠ 0 → fetchInstr u = .ok .eat → t.flags.success = false) :
    ∃ t : State, Host.Core.run Sys2Proof.core n s = .next t ∧ t.energy = 0 := by
  induction n generalizing s with
  | zero => exact ⟨s, rfl, BitVec.eq_of_toNat_eq (Nat.le_zero.1 bound)⟩
  | succ n ih =>
    by_cases frozen : s.Frozen
    · exact ⟨s, run_frozen frozen (n + 1), frozen⟩
    · obtain ⟨t, stepped⟩ := step_answers s
      have runs : ∀ k, Host.Core.run Sys2Proof.core (k + 1) s = Host.Core.run Sys2Proof.core k t :=
        run_succ_of_step (M := Sys2Proof.core) stepped
      have lower : t.energy.toNat ≤ n := by
        obtain ⟨fell, -⟩ | ⟨isEat, success, -⟩ := energyFallsUnlessTheCoreEats s t frozen stepped
        · omega
        · have failed := noMeal 0 (Nat.succ_pos n) s t rfl stepped frozen isEat
          exact absurd (success.symm.trans failed) nofun
      rw [runs]
      exact ih t lower fun k below u t' ran => noMeal (k + 1) (Nat.succ_lt_succ below) u t' ((runs k).trans ran)

/-- Settles O30: the ticks a core has energy for are enough. -/
theorem coreThatDoesNotEatFreezes : Obligations.CoreThatDoesNotEatFreezes :=
  fun s noMeal => frozen_after s.energy.toNat s (Nat.le_refl _) noMeal

/-! ### The grid (R6, R256) -/

/-- The World refuses a scripted move off the grid, and the script is used up (R256). -/
theorem askMove_off_grid {cfg : Params} {w : WorldPort} {x y : Word} {rest : List Answer}
    (script : w.script = .move (some (x, y)) :: rest) (off : cfg.gridWidth ≤ x.toNat ∨ cfg.gridHeight ≤ y.toNat)
    (d : BitVec 2) : askMove cfg w d = (false, { w with script := rest, log := .attemptMove d false :: w.log }) := by
  have asked := askMove_scripted cfg w rest (x, y) d
  have notOnto : ¬(x.toNat < cfg.gridWidth ∧ y.toNat < cfg.gridHeight) := by omega
  rwa [← script, if_neg notOnto] at asked

/-- Settles O54: the bodies keep the organism on the grid, where GETXY reads it, and a move off it is refused. -/
theorem theOrganismStaysOnTheGrid : Obligations.TheOrganismStaysOnTheGrid := by
  refine fun s grid => ⟨fun i t h => onGrid_of_exec grid h, fun dst dst2 => ?getxy,
    fun dir x y rest strong script off => ?travel⟩
  case getxy =>
    obtain ⟨width, height⟩ := grid
    obtain ⟨m, t, answers, first, second, -⟩ := exec_getxy_frame dst dst2 s
    exact ⟨s.world.x, s.world.y, m, t, answers, first, second, width, height⟩
  case travel =>
    obtain ⟨t, answers, store, cfg, sp, world, flags, ends⟩ :=
      exec_travel_asked_frame strong dir (askMove_off_grid script off _)
    exact ⟨t, answers, store, cfg, sp, flags, by rw [world], by rw [world], by rw [world], ends⟩

end Sys2Proof.Machine
end

section
/-! Self-modification (R63): what an instruction writes is what the next fetch reads, and O31. -/

namespace Sys2Proof.Machine

/-- The next fetch sees a new word at one address, if every read does. -/
theorem fetchSees_of_memRead {s t : State} {a : Int} {v : Word}
    (h : ∀ b : Int, t.memRead b = if b = a then v else s.memRead b) : FetchSees s t a v := by
  simp only [FetchSees, fetch_eq, h, and_self]

/-- A word stored at an address that exists is seen by the next fetch. -/
theorem fetchSees_of_stored {s t : State} {a : Int} {v : Word} (inside : InMemory a) (stored : Stored s t (.mem a) v) :
    FetchSees s t a v := by
  obtain ⟨-, mem⟩ := stored
  refine fetchSees_of_memRead fun b => ?_
  rw [mem]
  by_cases same : b = a
  · subst same
    rw [if_pos ⟨rfl, inside⟩, if_pos rfl]
  · rw [if_neg fun h => same (Loc.mem.inj h.1).symm, if_neg same]

/-- A word pushed at a new top that exists is seen by the next fetch. -/
theorem fetchSees_of_pushed {s t : State} {v : Word} (low : 1 ≤ s.sp.toNat) (high : s.sp.toNat ≤ 3600)
    (sp : t.sp.toNat = if s.sp = 0 then 3600 else s.sp.toNat - 1)
    (mem : ∀ a : Int, t.memRead a = if a = t.sp.toNat ∧ InMemory a then v else s.memRead a) :
    FetchSees s t (s.sp.toNat - 1) v := by
  have nonzero : s.sp ≠ 0 := by
    rintro zero
    simp [zero] at low
  rw [if_neg nonzero] at sp
  have top : (t.sp.toNat : Int) = s.sp.toNat - 1 := by omega
  have inside : InMemory ((s.sp.toNat : Int) - 1) := inMemory_iff.2 (by omega)
  refine fetchSees_of_memRead fun b => ?_
  rw [mem, top]
  by_cases same : b = s.sp.toNat - 1
  · rw [if_pos ⟨same, same ▸ inside⟩, if_pos same]
  · rw [if_neg fun h => same h.1, if_neg same]

/-- With one written operand, the words at other addresses than its own are those of before (R56). -/
theorem memRead_of_one_destination {i : Instr} {s t : State} {dst : Operand} {a b : Int} (named : destinations i = [dst])
    (resolved : resolve s dst = .mem a) (h : exec i s = .next t) (other : b ≠ a) : t.memRead b = s.memRead b := by
  by_contra changed
  obtain ⟨o, written, at_⟩ | ⟨⟨o, rfl | rfl⟩, -⟩ | ⟨rfl, -⟩ :=
    memoryChangesOnlyByStoresPushesAndMutation i s t b h changed
  · rw [named, List.mem_singleton] at written
    rw [written, resolved] at at_
    exact other (Loc.mem.inj at_).symm
  all_goals cases named

/-- An EAT with a mutation on record has succeeded, and its memory differs by that XOR (R225, R261). -/
theorem memRead_of_mutating_eat {s t : State} {e addr val : Word} (h : exec .eat s = .next t)
    (exposed : s.cfg.immuneToMutation = false)
    (recorded : t.world.log.head? = some (.consume e (some (addr, val)))) (a : Int) :
    t.memRead a = if a = addr.toNat ∧ InMemory a then s.memRead a ^^^ val else s.memRead a := by
  obtain ⟨-, failsCase, eatsCase⟩ := eatGrantsEnergyAndMayMutate s
  by_cases fails : EatFails s (elementUnder s.world)
  · obtain ⟨t', answers, -, -, -, -, -, -, log, -⟩ := failsCase ((eatFails_iff s _).1 fails)
    rw [next_unique answers h, log] at recorded
    cases recorded
  · obtain ⟨food, notCollection, room⟩ : _ ∧ _ ∧ _ := by simpa only [eatFails_iff, not_or] using fails
    obtain ⟨mutation, world, t', -, answers, -, -, -, -, -, -, head, -, -, -, -, mutated⟩ :=
      eatsCase food notCollection (Nat.le_of_not_lt room)
    cases next_unique answers h
    rw [recorded] at head
    cases head
    exact mutated addr val rfl exposed a

/-- Settles O31, by what each kind of instruction stores. -/
theorem storesAreSeenByTheNextFetch : Obligations.StoresAreSeenByTheNextFetch := by
  refine fun s => ⟨fun dst src a resolved inside => ?mov, fun low high o => ⟨?push, ?call⟩,
    fun i dst a named resolved => ?other, fun t e addr val h exposed recorded inside => ?eat⟩
  case mov =>
    obtain ⟨-, t, answers, stored, -⟩ := movWritesTheSource dst src s
    exact ⟨t, answers, fetchSees_of_stored inside (resolved ▸ stored)⟩
  case push =>
    obtain ⟨t, answers, sp, mem, -⟩ := pushStoresBelowTheStackPointer o s
    exact ⟨t, answers, fetchSees_of_pushed low high sp mem⟩
  case call =>
    obtain ⟨t, answers, sp, mem, -⟩ := callPushesTheReturnAddress o s
    exact ⟨t, answers, fetchSees_of_pushed low high sp mem⟩
  case other =>
    obtain ⟨t, answers⟩ := exec_answers i s
    refine ⟨t, answers, fetchSees_of_memRead fun b => ?_⟩
    split
    · rw [‹b = a›]
    · exact memRead_of_one_destination named resolved answers ‹_›
  case eat =>
    refine fetchSees_of_memRead fun b => ?_
    rw [memRead_of_mutating_eat h exposed recorded]
    by_cases same : b = addr.toNat
    · subst same
      rw [if_pos ⟨rfl, inMemory_iff.2 (by omega)⟩, if_pos rfl]
    · rw [if_neg fun h => same h.1, if_neg same]

end Sys2Proof.Machine
end

section
/-! Noninterference of `ORG_ID` (R32): every operation commutes with a change of it, so a tick does, and O22. -/

namespace Sys2Proof.Machine

/-- `s` with another `ORG_ID`. -/
def State.withOrgId (s : State) (n : Int) : State := { s with cfg := { s.cfg with orgId := n } }

/-- An outcome with another `ORG_ID` in the next state. -/
def Result.withOrgId (n : Int) : Result → Result
  | .next t => .next (t.withOrgId n)
  | .fault r => .fault r
  | .refused r => .refused r

section

variable (n : Int) (s : State)

/-! ### Operands and the ends of a step -/

theorem readOp_withOrgId (o : Operand) : readOp (s.withOrgId n) o = readOp s o := by cases o <;> rfl

theorem resolve_withOrgId (o : Operand) : resolve (s.withOrgId n) o = resolve s o := by cases o <;> rfl

theorem writeLoc_withOrgId (l : Loc) (v : Word) : writeLoc (s.withOrgId n) l v = (writeLoc s l v).withOrgId n := by
  cases l <;> rfl

theorem advance_withOrgId : advance (s.withOrgId n) = Result.withOrgId n (advance s) := rfl

theorem finish_withOrgId (next cost : Nat) :
    finish (s.withOrgId n) next cost = Result.withOrgId n (finish s next cost) := rfl

theorem setSuccess_withOrgId (ok : Bool) : (s.withOrgId n).setSuccess ok = (s.setSuccess ok).withOrgId n := rfl

theorem withWorld_withOrgId (w : WorldPort) : (s.withOrgId n).withWorld w = (s.withWorld w).withOrgId n := rfl

theorem memRead_withOrgId (a : Int) : (s.withOrgId n).memRead a = s.memRead a := rfl

theorem memWrite_withOrgId (a : Int) (v : Word) : (s.withOrgId n).memWrite a v = (s.memWrite a v).withOrgId n := rfl

theorem withSp_withOrgId (sp : Word) : (s.withOrgId n).withSp sp = (s.withSp sp).withOrgId n := rfl

theorem stackPush_withOrgId (v : Word) : stackPush (s.withOrgId n) v = (stackPush s v).withOrgId n := by
  have sp : (s.withOrgId n).sp = s.sp := rfl
  simp only [stackPush, sp, withSp_withOrgId, memWrite_withOrgId]

theorem stackDrop_withOrgId : stackDrop (s.withOrgId n) = (stackDrop s).withOrgId n := rfl

/-- A mutation asks for the immunity only, not for the `ORG_ID` (R261). -/
theorem applyMutation_withOrgId (m : Option (Word × Word)) :
    applyMutation (s.withOrgId n) m = (applyMutation s m).withOrgId n := by
  rcases m with - | ⟨addr, val⟩
  · rfl
  · have immunity : (s.withOrgId n).cfg.immuneToMutation = s.cfg.immuneToMutation := rfl
    simp only [applyMutation, mutate, immunity, memRead_withOrgId, memWrite_withOrgId]
    split
    · rfl
    · rfl

/-- A write and the advance, as most meanings end (R131, R137). -/
theorem advance_writeLoc_withOrgId (dst : Operand) (v : Word) :
    advance (writeLoc (s.withOrgId n) (resolve (s.withOrgId n) dst) v) =
      Result.withOrgId n (advance (writeLoc s (resolve s dst) v)) := by
  rw [resolve_withOrgId, writeLoc_withOrgId, advance_withOrgId]

/-! ### The meanings -/

theorem jumpWhen_withOrgId (taken : Bool) (addr : Operand) :
    jumpWhen taken addr (s.withOrgId n) = Result.withOrgId n (jumpWhen taken addr s) := by
  rw [jumpWhen, readOp_withOrgId]
  exact finish_withOrgId n s _ _

theorem binaryOp_withOrgId (f : Word → Word → Option Word) (dst src : Operand) :
    binaryOp f dst src (s.withOrgId n) = Result.withOrgId n (binaryOp f dst src s) := by
  simp only [binaryOp, readOp_withOrgId]
  cases f (readOp s dst) (readOp s src) with
  | none => rfl
  | some v => exact advance_writeLoc_withOrgId n s dst v

/-- A move asks for the grid only, not for the `ORG_ID` (R256). -/
theorem askMove_withOrgId (w : WorldPort) (d : BitVec 2) : askMove (s.withOrgId n).cfg w d = askMove s.cfg w d := rfl

theorem execTravel_withOrgId (dir : Operand) :
    execTravel dir (s.withOrgId n) = Result.withOrgId n (execTravel dir s) := by
  have energy : (s.withOrgId n).energy = s.energy := rfl
  have world : (s.withOrgId n).world = s.world := rfl
  simp only [execTravel, energy, world, readOp_withOrgId, askMove_withOrgId]
  split
  · rfl
  · rfl

theorem execRelease_withOrgId (amt : Operand) :
    execRelease amt (s.withOrgId n) = Result.withOrgId n (execRelease amt s) := by
  have energy : (s.withOrgId n).energy = s.energy := rfl
  have world : (s.withOrgId n).world = s.world := rfl
  simp only [execRelease, energy, world, readOp_withOrgId]
  split
  · split
    · rfl
    · rfl
  · rfl

theorem execEat_withOrgId : execEat (s.withOrgId n) = Result.withOrgId n (execEat s) := by
  have energy : (s.withOrgId n).energy = s.energy := rfl
  have world : (s.withOrgId n).world = s.world := rfl
  simp only [execEat, EatFails, energy, world, withWorld_withOrgId, applyMutation_withOrgId]
  split
  · rfl
  · rfl

theorem execGetxy_withOrgId (dst dst2 : Operand) :
    execGetxy dst dst2 (s.withOrgId n) = Result.withOrgId n (execGetxy dst dst2 s) := by
  have world : (s.withOrgId n).world = s.world := rfl
  simp only [execGetxy, world, resolve_withOrgId, withWorld_withOrgId, writeLoc_withOrgId, advance_withOrgId]

theorem execSense_withOrgId (dst : Operand) :
    execSense dst (s.withOrgId n) = Result.withOrgId n (execSense dst s) := by
  have world : (s.withOrgId n).world = s.world := rfl
  simp only [execSense, world, resolve_withOrgId, withWorld_withOrgId, writeLoc_withOrgId, setSuccess_withOrgId,
    advance_withOrgId]

theorem execRand_withOrgId (dst max : Operand) :
    execRand dst max (s.withOrgId n) = Result.withOrgId n (execRand dst max s) := by
  have world : (s.withOrgId n).world = s.world := rfl
  simp only [execRand, world, readOp_withOrgId, resolve_withOrgId, withWorld_withOrgId, writeLoc_withOrgId,
    advance_withOrgId]

/-- No instruction reads `ORG_ID` (R32). -/
theorem exec_withOrgId (i : Instr) : exec i (s.withOrgId n) = Result.withOrgId n (exec i s) := by
  cases i with
  | nop | ret | charge | poke | peek | cksum => rfl
  | mov dst src =>
    rw [exec_mov, readOp_withOrgId]
    exact advance_writeLoc_withOrgId n s dst _
  | energy dst => exact advance_writeLoc_withOrgId n s dst s.energy
  | push src =>
    rw [exec_push, readOp_withOrgId, stackPush_withOrgId, finish_withOrgId]
    rfl
  | call addr =>
    rw [exec_call, readOp_withOrgId, stackPush_withOrgId, finish_withOrgId]
    rfl
  | pop dst =>
    rw [exec_pop, resolve_withOrgId, stackDrop_withOrgId, writeLoc_withOrgId]
    rfl
  | jmp | jl | jle | jg | jge | je | jne | js | jns => exact jumpWhen_withOrgId n s _ _
  | add | sub | mult | div | mod | and | or | xor | shl | shr =>
    rw [exec]
    exact binaryOp_withOrgId n s _ _ _
  | cmp a b =>
    rw [exec_cmp, readOp_withOrgId, readOp_withOrgId]
    rfl
  | test a b =>
    rw [exec_test, readOp_withOrgId, readOp_withOrgId]
    rfl
  | getxy dst dst2 => exact execGetxy_withOrgId n s dst dst2
  | sense dst => exact execSense_withOrgId n s dst
  | rand dst max => exact execRand_withOrgId n s dst max
  | travel dir => exact execTravel_withOrgId n s dir
  | release amt => exact execRelease_withOrgId n s amt
  | eat => exact execEat_withOrgId n s

/-- Neither fetch nor decoding nor the frozen core's rule reads `ORG_ID` (R32). -/
theorem step_withOrgId : step (s.withOrgId n) = Result.withOrgId n (step s) := by
  have fetched : fetchInstr (s.withOrgId n) = fetchInstr s := rfl
  by_cases frozen : s.Frozen
  · rw [step_frozen frozen, step_frozen (s := s.withOrgId n) frozen]
    rfl
  · cases hf : fetchInstr s with
    | ok i =>
      rw [step_of_fetchInstr_ok frozen hf, step_of_fetchInstr_ok (s := s.withOrgId n) frozen (fetched.trans hf)]
      exact exec_withOrgId n s i
    | error r =>
      rw [step_of_fetchInstr_error frozen hf,
        step_of_fetchInstr_error (s := s.withOrgId n) frozen (fetched.trans hf)]
      rfl

end

/-- No instruction changes the configuration (R32). -/
theorem cfg_of_exec {i : Instr} {s t : State} (h : exec i s = .next t) : t.cfg = s.cfg := by
  obtain ⟨u, next, cost, body, ended⟩ := exec_body h
  obtain ⟨-, -, ⟨cfg, -, -, -⟩, -⟩ := of_finish ended
  rw [cfg, body.cfg]

/-- Settles O22, by the bodies and by the step under another `ORG_ID`. -/
theorem configurationIsConstantAndIdUnreadable : Obligations.ConfigurationIsConstantAndIdUnreadable := by
  refine fun s t n h => ⟨?constant, ?unreadable⟩
  case constant =>
    by_cases frozen : s.Frozen
    · rw [next_unique (step_frozen frozen) h]
    · obtain ⟨i, executed, -⟩ := step_executes frozen h
      exact cfg_of_exec executed
  case unreadable =>
    have relabelled := step_withOrgId n s
    rwa [h] at relabelled

end Sys2Proof.Machine
end

section
/-! Single operations and single steps (R24, R28, R34, R53, R132, R137, R245, R302): O10, O12, O14, O17, O18, O20, O21 and
O32. -/

namespace Sys2Proof.Machine

/-! ### Memory writes and written operands (R53, R137) -/

/-- A write outside the memory is discarded (R53). -/
theorem memWrite_outside {s : State} {a : Int} (v : Word) (h : ¬InMemory a) : s.memWrite a v = s := by
  rw [State.memWrite, memStore, if_neg h]
  rfl

/-- Settles O10, by the rule of a read after a write, and the write outside. -/
theorem memoryWritesAreBoundsChecked : Obligations.MemoryWritesAreBoundsChecked := by
  refine fun s a v => ⟨fun outside => memWrite_outside v fun inside => ?_, fun inside => ⟨fun b => ?_, rfl⟩⟩
  · have bounds := inMemory_iff.1 inside
    omega
  · rw [memRead_memWrite]
    by_cases same : b = a
    · rw [if_pos ⟨same.symm, inMemory_iff.2 inside⟩, if_pos same]
    · rw [if_neg fun h => same h.1.symm, if_neg same]

/-- An operand that resolves to a register reads it (R136, R138). -/
theorem readOp_of_resolve_reg {s : State} {o : Operand} {i : Nat} (h : resolve s o = .reg i) :
    readOp s o = s.regRead i := by
  obtain ⟨v, rfl, rfl⟩ := register_of_resolve h
  rfl

/-- An operand that resolves to a memory address reads there (R136, R138). -/
theorem readOp_of_resolve_mem {s : State} {o : Operand} {a : Int} (h : resolve s o = .mem a) :
    readOp s o = s.memRead a := by
  cases o with
  | direct | indexed =>
    cases h
    rfl
  | register | immediate => cases h

/-- A register write moves no Register operand (R138). -/
theorem resolve_regWrite_of_reg {s : State} {o : Operand} {i : Nat} (h : resolve s o = .reg i) (v : Word) :
    resolve (s.regWrite i v) o = .reg i := by
  obtain ⟨w, rfl, rfl⟩ := register_of_resolve h
  rfl

/-- A memory write moves no operand: effective addresses come from registers (R135). -/
theorem resolve_memWrite (s : State) (a : Int) (v : Word) (o : Operand) : resolve (s.memWrite a v) o = resolve s o := by
  cases o <;> rfl

/-- Settles O12: the place is resolved the same before and after the write, and holds the word if it exists. -/
theorem writtenOperandsAreReadBack : Obligations.WrittenOperandsAreReadBack := by
  intro s o v
  refine ⟨fun _ => rfl, fun _ => rfl, ?indexed, ?immediate, fun i at_ => ?reg, fun a at_ => ?mem⟩
  case indexed =>
    rintro reg off rfl
    rfl
  case immediate =>
    rintro w rfl
    rfl
  case reg =>
    rw [at_, writeLoc]
    refine ⟨readOp_of_resolve_reg at_, fun upTo => ?_, fun above => regWrite_outside v (by omega)⟩
    rw [readOp_of_resolve_reg (resolve_regWrite_of_reg at_ v), regRead_regWrite_inside v (by omega), if_pos rfl]
  case mem =>
    rw [at_, writeLoc]
    refine ⟨readOp_of_resolve_mem at_, fun inside => ?_, fun outside => memWrite_outside v fun inside => ?_⟩
    · rw [readOp_of_resolve_mem ((resolve_memWrite s a v o).trans at_), memRead_memWrite,
        if_pos ⟨rfl, inMemory_iff.2 inside⟩]
    · have bounds := inMemory_iff.1 inside
      omega

/-! ### One step (R132, R133, R245) -/

/-- Settles O14: the words named are those of the fetch, decoded at their own address. -/
theorem stepRunsTheDecodedInstruction : Obligations.StepRunsTheDecodedInstruction := by
  refine fun s i => ⟨fun live decoded => step_of_fetchInstr_ok live ?_, instrAddr_eq_ip_of_inv⟩
  rw [fetchInstr, fetch_eq]
  exact decoded

/-- A low byte above 37 at the instruction's address is no instruction (R95). -/
theorem fetchInstr_of_undefined {s : State} (bijective : OpcodeMap.wf s.cfg.opcodeMap = true)
    (high : 37 < (s.memRead s.instrAddr).toNat % 256) : ∃ r, fetchInstr s = .error r := by
  have word0 : (fetch s).w0 = s.memRead s.instrAddr := by rw [fetch_eq]
  rw [← word0] at high
  obtain ⟨upTo, -⟩ | ⟨-, noMnemonic⟩ := low_byte_cases bijective (fetch s).w0
  · omega
  · exact ⟨_, decode_of_no_mnemonic noMnemonic (u16 s.instrAddr)⟩

/-- Settles O17: such words are fetched as no instruction, and what runs then is NOP's advance. -/
theorem undefinedOpcodesExecuteAsNop : Obligations.UndefinedOpcodesExecuteAsNop := by
  intro s bijective live high
  obtain ⟨r, undefined⟩ := fetchInstr_of_undefined bijective high
  have asNop : step s = exec .nop s := step_of_fetchInstr_error live undefined
  obtain ⟨t, answers, frame, cost⟩ := advance_frame s
  exact ⟨asNop, t, asNop.trans answers, frame, cost⟩

/-- Settles O18: the next multiple of 3 is the one that `norm` reduces. -/
theorem normRoundsUpThenReduces : Obligations.NormRoundsUpThenReduces := by
  intro v
  obtain ⟨aligned, upTo⟩ := normIp_aligned v
  exact ⟨aligned, upTo, normIp_eq_self aligned (normIp_lt v), (v + 2) / 3 * 3, by omega, by omega, by omega,
    normIp_toNat v⟩

/-! ### Reset and loader (R34, R252, R302) -/

/-- The values of R34 meet the invariant, with a memory in canonical form, parameters in their ranges and a position on the
grid. -/
theorem spawn_inv {cfg : Params} {world : WorldPort} {mem : Memory} (memWf : Memory.wf mem = true)
    (cfgWf : cfg.wf = true) (width : world.x.toNat < cfg.gridWidth) (height : world.y.toNat < cfg.gridHeight) :
    (State.spawn cfg world mem).Inv :=
  ⟨rfl, Nat.zero_le _, Nat.le_refl 3600, memWf, cfgWf, width, height⟩

/-- The default parameters are in the ranges of R6. -/
theorem defaultParams_wf : Config.defaultParams.wf = true := by decide

/-- Settles O20: the reset values meet the invariant, and zero words are a NOP. -/
theorem resetMeetsTheInvariant : Obligations.ResetMeetsTheInvariant :=
  ⟨spawn_inv rfl defaultParams_wf Config.spawnX.isLt Config.spawnY.isLt, rfl, rfl⟩

/-- When the loader accepts (R302; log 3, log 22). -/
theorem load_accepts {cfg : Params} {world : WorldPort} {image : List Word} (length : image.length = 3600)
    (cfgWf : cfg.wf = true) (grid : onGrid cfg world.x world.y = true) :
    load cfg world image = some (State.spawn cfg world (memOfWords 0 image)) := by
  simp [load, imageWf, length, cfgWf, grid]

/-- Every loaded word is read back, at its place in the image (R302). -/
theorem memRead_of_loaded {s : State} {image : List Word} (length : image.length = 3600) (mem : s.mem = memOfWords 0 image)
    {k : Nat} (below : k < 3600) : some (s.memRead k) = image[k]? := by
  have inside : InMemory (k : Int) := inMemory_iff.2 (by omega)
  have listed := memLookup_memOfWords 0 image k
  rw [Nat.zero_add] at listed
  rw [memRead_inside inside, mem, Int.toNat_natCast, listed, List.getElem?_eq_getElem (by omega), Option.getD_some]

/-- Every register is 0 after reset (R34). -/
theorem regRead_spawn (cfg : Params) (world : WorldPort) (mem : Memory) (i : Nat) :
    (State.spawn cfg world mem).regRead i = 0 := by
  by_cases h : i < 14
  · rw [regRead_inside h]
    exact Vector.getElem_replicate h
  · exact regRead_outside h

/-- An image of zero words lists nothing (R58; log 2). -/
theorem memOfWords_zeros (a n : Nat) : memOfWords a (List.replicate n 0) = [] := by
  induction n generalizing a with
  | zero => rfl
  | succ n ih => exact ih (a + 1)

/-- Settles O21, by when the loader refuses, and the values of R34 where it does not. -/
theorem loaderPlacesTheImageVerbatim : Obligations.LoaderPlacesTheImageVerbatim := by
  refine ⟨fun cfg world image => ⟨fun bad => ?refuses, fun length cfgWf width height => ?accepts⟩, ?zeros⟩
  case refuses =>
    refine load_refuses (bad.imp_right (Or.imp_right fun off => ?_))
    rwa [← Bool.not_eq_true, onGrid, Bool.and_eq_true, decide_eq_true_iff, decide_eq_true_iff]
  case accepts =>
    have grid : onGrid cfg world.x world.y = true := by simp [onGrid, width, height]
    have memWf : Memory.wf (memOfWords 0 image) = true := memOfWords_wf (by rw [length])
    exact ⟨_, load_accepts length cfgWf grid, spawn_inv memWf cfgWf width height, fun k => memRead_of_loaded length rfl,
      regRead_spawn _ _ _, rfl, rfl, rfl, rfl, rfl, rfl⟩
  case zeros =>
    have grid : onGrid Config.defaultParams Config.spawnX Config.spawnY = true := by
      simp only [onGrid, Bool.and_eq_true, decide_eq_true_iff]
      exact ⟨Config.spawnX.isLt, Config.spawnY.isLt⟩
    rw [load_accepts List.length_replicate defaultParams_wf grid, memOfWords_zeros]
    rfl

/-! ### The snapshot (R28, R265) -/

/-- The flags' 4-bit value (R28). -/
theorem flagsValue_toNat (f : Flags) : (flagsValue f).toNat =
    f.success.toNat + 2 * f.less.toNat + 4 * f.equal.toNat + 8 * f.greater.toNat := by
  obtain ⟨success, less, equal, greater⟩ := f
  revert success less equal greater
  decide

/-- Settles O32: the fields are the state's own, and the flags their 4-bit value. -/
theorem snapshotShowsTheState : Obligations.SnapshotShowsTheState :=
  fun s => ⟨rfl, rfl, rfl, rfl, rfl, rfl, fun _ => rfl, flagsValue_toNat s.flags, rfl⟩

end Sys2Proof.Machine
end
